-- ==== Sys2Proof/Word.lean ====
section
/-! DEFINITION. The word types of the block: one 40-bit command word (30_encoding.md R70) and the byte a host
serialises it into (20_memory.md R52). -/
namespace Sys2Proof

/-- One command word, the block's only instruction length (30_encoding.md R70). -/
abbrev Word := BitVec 40

/-- One byte of a serialised word or sample (20_memory.md R52). -/
abbrev Byte := BitVec 8

end Sys2Proof
end

