-- ==== Sys2Proof/Syntax.lean ====
section
/-! DEFINITION. The commands of the block as syntax: one constructor for each row of opcode_table.json
(30_encoding.md R76; READ has one row for each select), the channel names, and the names of the fault codes. -/
namespace Sys2Proof

/-- A channel number, 0 to 3 (30_encoding.md R73). -/
inductive Chan
  | c0 | c1 | c2 | c3
  deriving DecidableEq, Repr

/-- The faults of 60_exceptions.md R190. A fault stops nothing (R191). -/
inductive FaultCode
  /-- OP is 0xC to 0xF (R192). -/
  | illegalOpcode
  /-- A field that must be zero is not (R193). -/
  | reservedField
  /-- READ of select 13 to 15 (R194). -/
  | illegalSelect
  /-- A PITCH whose increment does not fit 28 bits (R195). -/
  | pitchRange
  deriving DecidableEq, Repr

/-- The commands (30_encoding.md R76), each with the operands of R75. -/
inductive Instr
  /-- NOP, 44_host.md R170. -/
  | nop
  /-- SAMPLE, 43_sample.md R130. -/
  | sample
  /-- PITCH: `q` is DATA[15:0], read as a signed number (40_pitch.md R101). -/
  | pitch (c : Chan) (q : BitVec 16)
  /-- FREQ, 40_pitch.md R104. -/
  | freq (c : Chan) (f : BitVec 28)
  /-- PWSET, 42_waveform_control.md R122. -/
  | pwset (c : Chan) (v : BitVec 28)
  /-- PWADD, 42_waveform_control.md R123. -/
  | pwadd (c : Chan) (v : BitVec 28)
  /-- WAVE, 42_waveform_control.md R120. Bit 3 of `flags` must be 0. -/
  | wave (c : Chan) (flags : BitVec 8)
  /-- GATE, 41_envelope_control.md R112. -/
  | gate (c : Chan) (b : BitVec 1)
  /-- ADSR: the attack, decay, sustain and release nibbles (41_envelope_control.md R110). -/
  | adsr (c : Chan) (a d su r : BitVec 4)
  /-- ENVREL, 41_envelope_control.md R114. -/
  | envrel (c : Chan)
  /-- ACTIVE, 44_host.md R171. -/
  | active (c : Chan) (b : BitVec 1)
  /-- READ of select 0 (44_host.md R172, 20_memory.md R51), and so on to select 12. -/
  | readPhase (c : Chan)
  | readFreq (c : Chan)
  | readPw (c : Chan)
  | readLfsr (c : Chan)
  | readLevel (c : Chan)
  | readEnvst (c : Chan)
  | readWave (c : Chan)
  | readGate (c : Chan)
  | readAdsr (c : Chan)
  | readActive (c : Chan)
  | readWaveout (c : Chan)
  /-- READ of OUT, select 11: a global register, so no channel. -/
  | readOut
  /-- READ of FAULT, select 12: a global register, so no channel. -/
  | readFault
  deriving DecidableEq, Repr

end Sys2Proof
end

