-- ==== Sys2Proof/WellFormed.lean ====
section
/-! DEFINITION. Which terms of Instr stand for a command the block has. The operand types already bound every
field; the one check left is WAVE's bit 3, which must be zero (42_waveform_control.md R120, 10_state.md R33). -/
namespace Sys2Proof

/-- WAVE with bit 3 set is an illegal command (10_state.md R33); every other term is a command of the block. -/
def Instr.wellFormed : Instr → Bool
  | .nop => true
  | .sample => true
  | .pitch _ _ => true
  | .freq _ _ => true
  | .pwset _ _ => true
  | .pwadd _ _ => true
  | .wave _ flags => !flags.getLsbD 3
  | .gate _ _ => true
  | .adsr _ _ _ _ _ => true
  | .envrel _ => true
  | .active _ _ => true
  | .readPhase _ => true
  | .readFreq _ => true
  | .readPw _ => true
  | .readLfsr _ => true
  | .readLevel _ => true
  | .readEnvst _ => true
  | .readWave _ => true
  | .readGate _ => true
  | .readAdsr _ => true
  | .readActive _ => true
  | .readWaveout _ => true
  | .readOut => true
  | .readFault => true

/-- The proposition form of `Instr.wellFormed`. -/
abbrev Instr.WellFormed (i : Instr) : Prop := i.wellFormed = true

end Sys2Proof
end

