-- ==== Sys2Proof/Decode.lean ====
section
/-! DEFINITION. From a command word to a command (30_encoding.md R70 to R78), the encoder back, and the
serialisation of words and samples by a host (20_memory.md R52). -/
namespace Sys2Proof

/-! ### Fields (30_encoding.md R70) -/

/-- OP, bits 39:36. -/
def Word.op (w : Word) : BitVec 4 := w.extractLsb' 36 4

/-- CH, bits 35:34. -/
def Word.chan (w : Word) : BitVec 2 := w.extractLsb' 34 2

/-- Z, bits 33:32. -/
def Word.zero (w : Word) : BitVec 2 := w.extractLsb' 32 2

/-- DATA, bits 31:0. -/
def Word.data (w : Word) : BitVec 32 := w.extractLsb' 0 32

/-- The four fields joined into one word. -/
def Word.ofFields (op : BitVec 4) (c z : BitVec 2) (d : BitVec 32) : Word := op ++ c ++ z ++ d

/-- CH as an unsigned number names the channel (30_encoding.md R73). -/
def Chan.ofBits (b : BitVec 2) : Chan :=
  match b.toNat with
  | 0 => .c0
  | 1 => .c1
  | 2 => .c2
  | _ => .c3

/-- The channel number as the CH field holds it. -/
def Chan.bits : Chan → BitVec 2
  | .c0 => 0
  | .c1 => 1
  | .c2 => 2
  | .c3 => 3

/-! ### Decoding -/

/-- OPERAND_MASK of 30_encoding.md R78: the DATA bits an opcode uses. The reserved opcodes use none; `decode`
rejects them before it looks at the mask. -/
def operandMask (op : BitVec 4) : BitVec 32 :=
  match op.toNat with
  | 0x0 => 0x0
  | 0x1 => 0x0
  | 0x2 => 0xFFFF
  | 0x3 => 0x0FFFFFFF
  | 0x4 => 0x0FFFFFFF
  | 0x5 => 0x0FFFFFFF
  | 0x6 => 0xF7
  | 0x7 => 0x1
  | 0x8 => 0xFFFF
  | 0x9 => 0x0
  | 0xA => 0x1
  | 0xB => 0xF
  | _ => 0x0

/-- READ's register select, DATA[3:0] (20_memory.md R51). A global register takes no channel. -/
def readOfSelect (c : Chan) (sel : BitVec 4) : Except FaultCode Instr :=
  match sel.toNat with
  | 0 => .ok (.readPhase c)
  | 1 => .ok (.readFreq c)
  | 2 => .ok (.readPw c)
  | 3 => .ok (.readLfsr c)
  | 4 => .ok (.readLevel c)
  | 5 => .ok (.readEnvst c)
  | 6 => .ok (.readWave c)
  | 7 => .ok (.readGate c)
  | 8 => .ok (.readAdsr c)
  | 9 => .ok (.readActive c)
  | 10 => .ok (.readWaveout c)
  | 11 => .ok .readOut
  | 12 => .ok .readFault
  | _ => .error .illegalSelect

/-- The operands of 30_encoding.md R75, taken from DATA once. -/
def instrOfFields (op : BitVec 4) (c : Chan) (d : BitVec 32) : Except FaultCode Instr :=
  match op.toNat with
  | 0x0 => .ok .nop
  | 0x1 => .ok .sample
  | 0x2 => .ok (.pitch c (d.extractLsb' 0 16))
  | 0x3 => .ok (.freq c (d.extractLsb' 0 28))
  | 0x4 => .ok (.pwset c (d.extractLsb' 0 28))
  | 0x5 => .ok (.pwadd c (d.extractLsb' 0 28))
  | 0x6 => .ok (.wave c (d.extractLsb' 0 8))
  | 0x7 => .ok (.gate c (d.extractLsb' 0 1))
  | 0x8 => .ok (.adsr c (d.extractLsb' 12 4) (d.extractLsb' 8 4) (d.extractLsb' 4 4) (d.extractLsb' 0 4))
  | 0x9 => .ok (.envrel c)
  | 0xA => .ok (.active c (d.extractLsb' 0 1))
  | 0xB => readOfSelect c (d.extractLsb' 0 4)
  | _ => .error .illegalOpcode

/-- The decoding procedure of 30_encoding.md R78, total on every word. The first check that fails decides the
fault code (60_exceptions.md R196). -/
def decode (w : Word) : Except FaultCode Instr :=
  let op := w.op
  let c := w.chan
  let d := w.data
  if 0xC ≤ op.toNat then .error .illegalOpcode
  else if w.zero ≠ 0 then .error .reservedField
  else if d &&& ~~~(operandMask op) ≠ 0 then .error .reservedField
  else if (op = 0x0 ∨ op = 0x1) ∧ c ≠ 0 then .error .reservedField
  else if op = 0xB ∧ 13 ≤ (d.extractLsb' 0 4).toNat then .error .illegalSelect
  else if op = 0xB ∧ ((d.extractLsb' 0 4).toNat = 11 ∨ (d.extractLsb' 0 4).toNat = 12) ∧ c ≠ 0 then
    .error .reservedField
  else instrOfFields op (Chan.ofBits c) d

/-! ### Encoding -/

/-- A command of channel `c` with DATA `d` (Z is 0, 30_encoding.md R74). -/
def encodeFields (op : BitVec 4) (c : Chan) (d : BitVec 32) : Word := Word.ofFields op c.bits 0 d

/-- The word of a command, from the operand table 30_encoding.md R75 and the opcode map R76. -/
def encode : Instr → Word
  | .nop => encodeFields 0x0 .c0 0
  | .sample => encodeFields 0x1 .c0 0
  | .pitch c q => encodeFields 0x2 c (q.setWidth 32)
  | .freq c f => encodeFields 0x3 c (f.setWidth 32)
  | .pwset c v => encodeFields 0x4 c (v.setWidth 32)
  | .pwadd c v => encodeFields 0x5 c (v.setWidth 32)
  | .wave c flags => encodeFields 0x6 c (flags.setWidth 32)
  | .gate c b => encodeFields 0x7 c (b.setWidth 32)
  | .adsr c a d su r => encodeFields 0x8 c ((a ++ d ++ su ++ r).setWidth 32)
  | .envrel c => encodeFields 0x9 c 0
  | .active c b => encodeFields 0xA c (b.setWidth 32)
  | .readPhase c => encodeFields 0xB c 0
  | .readFreq c => encodeFields 0xB c 1
  | .readPw c => encodeFields 0xB c 2
  | .readLfsr c => encodeFields 0xB c 3
  | .readLevel c => encodeFields 0xB c 4
  | .readEnvst c => encodeFields 0xB c 5
  | .readWave c => encodeFields 0xB c 6
  | .readGate c => encodeFields 0xB c 7
  | .readAdsr c => encodeFields 0xB c 8
  | .readActive c => encodeFields 0xB c 9
  | .readWaveout c => encodeFields 0xB c 10
  | .readOut => encodeFields 0xB .c0 11
  | .readFault => encodeFields 0xB .c0 12

/-! ### The opcode table (opcode_table.json) -/

/-- One row: a word belongs to it when its bits under `mask` are `pattern`. -/
structure OpcodeRow where
  mnemonic : String
  pattern : Word
  mask : Word
  deriving DecidableEq, Repr

/-- The row's test of a word. -/
def OpcodeRow.matches (row : OpcodeRow) (w : Word) : Bool := w &&& row.mask = row.pattern

/-- The rows of the commands that are not READ. -/
def commandRows : List OpcodeRow :=
  [⟨"NOP", 0x0000000000, 0xFFFFFFFFFF⟩,
   ⟨"SAMPLE", 0x1000000000, 0xFFFFFFFFFF⟩,
   ⟨"PITCH", 0x2000000000, 0xF3FFFF0000⟩,
   ⟨"FREQ", 0x3000000000, 0xF3F0000000⟩,
   ⟨"PWSET", 0x4000000000, 0xF3F0000000⟩,
   ⟨"PWADD", 0x5000000000, 0xF3F0000000⟩,
   ⟨"WAVE", 0x6000000000, 0xF3FFFFFF08⟩,
   ⟨"GATE", 0x7000000000, 0xF3FFFFFFFE⟩,
   ⟨"ADSR", 0x8000000000, 0xF3FFFF0000⟩,
   ⟨"ENVREL", 0x9000000000, 0xF3FFFFFFFF⟩,
   ⟨"ACTIVE", 0xA000000000, 0xF3FFFFFFFE⟩]

/-- The rows of READ, one for each select. -/
def readRows : List OpcodeRow :=
  [⟨"READ.PHASE", 0xB000000000, 0xF3FFFFFFFF⟩,
   ⟨"READ.FREQ", 0xB000000001, 0xF3FFFFFFFF⟩,
   ⟨"READ.PW", 0xB000000002, 0xF3FFFFFFFF⟩,
   ⟨"READ.LFSR", 0xB000000003, 0xF3FFFFFFFF⟩,
   ⟨"READ.LEVEL", 0xB000000004, 0xF3FFFFFFFF⟩,
   ⟨"READ.ENVST", 0xB000000005, 0xF3FFFFFFFF⟩,
   ⟨"READ.WAVE", 0xB000000006, 0xF3FFFFFFFF⟩,
   ⟨"READ.GATE", 0xB000000007, 0xF3FFFFFFFF⟩,
   ⟨"READ.ADSR", 0xB000000008, 0xF3FFFFFFFF⟩,
   ⟨"READ.ACTIVE", 0xB000000009, 0xF3FFFFFFFF⟩,
   ⟨"READ.WAVEOUT", 0xB00000000A, 0xF3FFFFFFFF⟩,
   ⟨"READ.OUT", 0xB00000000B, 0xFFFFFFFFFF⟩,
   ⟨"READ.FAULT", 0xB00000000C, 0xFFFFFFFFFF⟩]

/-- The 24 rows of opcode_table.json, in its order. -/
def opcodeTable : List OpcodeRow := commandRows ++ readRows

/-- The mnemonic of a command's row. -/
def Instr.mnemonic : Instr → String
  | .nop => "NOP"
  | .sample => "SAMPLE"
  | .pitch _ _ => "PITCH"
  | .freq _ _ => "FREQ"
  | .pwset _ _ => "PWSET"
  | .pwadd _ _ => "PWADD"
  | .wave _ _ => "WAVE"
  | .gate _ _ => "GATE"
  | .adsr _ _ _ _ _ => "ADSR"
  | .envrel _ => "ENVREL"
  | .active _ _ => "ACTIVE"
  | .readPhase _ => "READ.PHASE"
  | .readFreq _ => "READ.FREQ"
  | .readPw _ => "READ.PW"
  | .readLfsr _ => "READ.LFSR"
  | .readLevel _ => "READ.LEVEL"
  | .readEnvst _ => "READ.ENVST"
  | .readWave _ => "READ.WAVE"
  | .readGate _ => "READ.GATE"
  | .readAdsr _ => "READ.ADSR"
  | .readActive _ => "READ.ACTIVE"
  | .readWaveout _ => "READ.WAVEOUT"
  | .readOut => "READ.OUT"
  | .readFault => "READ.FAULT"

/-! ### Serialisation by a host (20_memory.md R52) -/

/-- A command word as 5 bytes, least significant first. -/
def bytesOfWord (w : Word) : List Byte :=
  [w.extractLsb' 0 8, w.extractLsb' 8 8, w.extractLsb' 16 8, w.extractLsb' 24 8, w.extractLsb' 32 8]

/-- The word of 5 bytes, `b0` the least significant. -/
def wordOfBytes (b0 b1 b2 b3 b4 : Byte) : Word := b4 ++ b3 ++ b2 ++ b1 ++ b0

/-- An output sample as 2 bytes, least significant first. -/
def bytesOfSample (v : BitVec 16) : List Byte := [v.extractLsb' 0 8, v.extractLsb' 8 8]

/-- The first command of a serialised command list and the bytes after it; no command where fewer than 5 bytes
are left, since the block is handed whole words only (20_memory.md R53). -/
def decodeBytes : List Byte → Option (Except FaultCode Instr × List Byte)
  | b0 :: b1 :: b2 :: b3 :: b4 :: rest => some (decode (wordOfBytes b0 b1 b2 b3 b4), rest)
  | _ => none

/-! ### The host's view of a table row -/

/-- The word whose low `nbits` bits are `w`, every bit above them 0. -/
def tableWord (nbits w : Nat) : Word := BitVec.ofNat 40 (w % 2 ^ nbits)

/-- The instruction the decoder reads from the bits of a table row, if it reads one. -/
def decodeTableWord (nbits w : Nat) : Option Instr :=
  match decode (tableWord nbits w) with
  | .ok i => some i
  | .error _ => none

end Sys2Proof
end

