-- ==== Sys2Proof/Config.lean ====
section
/-! DEFINITION. The parameters of a model instance (00_scope.md R7), their laws and their defaults. They are
constants of the instance: no step writes them (10_state.md R39). -/
namespace Sys2Proof

/-- The parameters the source leaves open (00_scope.md R7), which the model takes as arguments. -/
structure Config where
  /-- SAMPLE_RATE, output samples per second (92_eei_decisions.md D7). -/
  sampleRate : Nat
  /-- MIX_SHIFT, the mixer's right shift (92_eei_decisions.md D8). -/
  mixShift : Nat
  /-- ATTACK_TABLE[0..15], the per-sample increments of ATTACK (92_eei_decisions.md D6). -/
  attackTable : Vector (BitVec 24) 16
  /-- RELEASE_TABLE[0..15], the per-sample decrements of DECAY and RELEASE (92_eei_decisions.md D6). -/
  releaseTable : Vector (BitVec 24) 16
  /-- LFSR_SEED, the noise register after reset (92_eei_decisions.md D10). -/
  lfsrSeed : BitVec 23
  /-- NOISE_TAPS: entry i is the LFSR bit that feeds noise output bit i (92_eei_decisions.md D10). -/
  noiseTaps : Vector (Fin 23) 8
  deriving DecidableEq, Repr

namespace Config

/-- The law column of 00_scope.md R7. The upper bounds of the table entries, of the seed and of the taps are
their types' own. -/
structure Lawful (cfg : Config) : Prop where
  sampleRate_pos : 0 < cfg.sampleRate
  mixShift_le : cfg.mixShift ≤ 31
  attack_ne_zero : ∀ i : Fin 16, cfg.attackTable[i] ≠ 0#24
  release_ne_zero : ∀ i : Fin 16, cfg.releaseTable[i] ≠ 0#24
  seed_ne_zero : cfg.lfsrSeed ≠ 0#23
  taps_distinct : ∀ i j : Fin 8, cfg.noiseTaps[i] = cfg.noiseTaps[j] → i = j

/-- The default rate-table entry for an envelope time of `tMs` milliseconds (92_eei_decisions.md D6). -/
def tableEntry (sampleRate tMs : Nat) : Nat := max 1 (0xFFFFFF * 1000 / (tMs * sampleRate))

/-- The attack times of nibbles 0 to 15 in milliseconds (92_eei_decisions.md D6, 93_implementation_defined.md
G1). The decay and release times are three times those. -/
def attackTimesMs : Vector Nat 16 :=
  #v[2, 8, 16, 24, 38, 56, 68, 80, 100, 250, 500, 800, 1000, 3000, 5000, 8000]

/-- The default of every parameter (00_scope.md R7; the numbers of 92_eei_decisions.md D6, D7, D8 and D10).
PRESUMED by the spec itself for the tables, the seed and the taps (G1 to G3): log 1. -/
def default : Config where
  sampleRate := 44100
  mixShift := 16
  attackTable := #v[190217, 47554, 23777, 15851, 10011, 6793, 5594, 4755,
    3804, 1521, 760, 475, 380, 126, 76, 47]
  releaseTable := #v[63405, 15851, 7925, 5283, 3337, 2264, 1864, 1585,
    1268, 507, 253, 158, 126, 42, 25, 15]
  lfsrSeed := 0x7FFFF8
  noiseTaps := #v[2, 4, 7, 11, 13, 16, 20, 22]

end Config
end Sys2Proof
end

