-- ==== Sys2Proof/Machine/State.lean ====
section
/-! DEFINITION. The state of the block: the registers of 10_state.md R20, the instance's parameters and the
model's own bookkeeping of the four ports (44_host.md R173), and its value after reset. -/
namespace Sys2Proof.Machine

/-- ENVST (10_state.md R28): the four states, one for each 2-bit encoding (log 9). -/
inductive EnvState
  | release | attack | decay | sustain
  deriving DecidableEq, Repr

/-- One channel's register bank (10_state.md R20, per channel). -/
structure ChannelRegs where
  /-- PHASE, 10_state.md R23. -/
  phase : BitVec 28
  /-- FREQ, 10_state.md R24. -/
  freq : BitVec 28
  /-- PW, 10_state.md R25. -/
  pw : BitVec 28
  /-- LFSR, 10_state.md R26. -/
  lfsr : BitVec 23
  /-- LEVEL, 10_state.md R27. -/
  level : BitVec 24
  /-- ENVST, 10_state.md R28. -/
  envst : EnvState
  /-- WAVE, 10_state.md R32 and R33. -/
  wave : BitVec 8
  /-- GATE, 10_state.md R29. -/
  gate : BitVec 1
  /-- ADSR, 10_state.md R30. -/
  adsr : BitVec 16
  /-- ACTIVE, 10_state.md R34. -/
  active : BitVec 1
  /-- WAVEOUT, 10_state.md R35. -/
  waveout : BitVec 8
  deriving DecidableEq, Repr

/-- The four channels ch[0] to ch[3]. -/
structure Bank where
  ch0 : ChannelRegs
  ch1 : ChannelRegs
  ch2 : ChannelRegs
  ch3 : ChannelRegs
  deriving DecidableEq, Repr

/-- What the host may send between two commands (44_host.md R176). -/
inductive HostInput
  /-- One command word on the command port. -/
  | command (w : Word)
  /-- One pulse of the reset input (70_reset_and_hazards.md R210). -/
  | reset
  deriving DecidableEq, Repr

/-- No fault ever stops the block: a faulting command records a code in FAULT and the next command is accepted as
usual (60_exceptions.md R191). So there is no reason for a step to stop, and this type has no constructor (log 6). -/
inductive Fault
  deriving DecidableEq, Repr

/-- Why the model would give a command no meaning. -/
inductive Refusal
  /-- Raised only by an arm of exec whose meaning is not written yet; no arm is. Safe: the model stops. -/
  | notModelled (mnemonic : String)
  deriving DecidableEq, Repr

/-- The state of the block and of its ports. -/
structure State where
  /-- The parameters of this instance (00_scope.md R7). Constant: no step writes them (log 1). -/
  cfg : Config
  /-- The channel banks. -/
  ch : Bank
  /-- OUT, 10_state.md R36: a two's complement pattern. -/
  out : BitVec 16
  /-- FAULT, 10_state.md R37. -/
  fault : BitVec 3
  /-- RDATA, 10_state.md R38. -/
  rdata : BitVec 32
  /-- What the host sends next, oldest first, in place of R21's command index (log 2). -/
  input : List HostInput
  /-- The values driven on the sample output port, oldest first (44_host.md R174; log 5). -/
  samples : List (BitVec 16)
  /-- The values presented on the read-data port, oldest first (44_host.md R174; log 5). -/
  reads : List (BitVec 32)
  deriving DecidableEq, Repr

/-- A channel after reset (70_reset_and_hazards.md R210). -/
def ChannelRegs.reset (cfg : Config) : ChannelRegs where
  phase := 0
  freq := 0
  pw := 0
  lfsr := cfg.lfsrSeed
  level := 0
  envst := .release
  wave := 0
  gate := 0
  adsr := 0
  active := 1
  waveout := 0

/-- The four channels after reset. -/
def Bank.reset (cfg : Config) : Bank where
  ch0 := ChannelRegs.reset cfg
  ch1 := ChannelRegs.reset cfg
  ch2 := ChannelRegs.reset cfg
  ch3 := ChannelRegs.reset cfg

/-- An instance with parameters `cfg` right after its first reset (70_reset_and_hazards.md R210): nothing sent,
sampled or read yet. -/
def State.resetWith (cfg : Config) : State where
  cfg := cfg
  ch := Bank.reset cfg
  out := 0
  fault := 0
  rdata := 0
  input := []
  samples := []
  reads := []

/-- The machine right after reset, at the default parameters (log 1). -/
def State.reset : State := State.resetWith Config.default

end Sys2Proof.Machine
end

