-- ==== Sys2Proof/Machine/Ops.lean ====
section
/-! DEFINITION. The named operations over the registers and the ports, raising a fault, the reset input, and the
arithmetic primitives of 00_scope.md R8. -/
namespace Sys2Proof.Machine

/-! ### Arithmetic (00_scope.md R8) -/

/-- `asr(v, n)`: floor of `v / 2^n`. -/
def asr (v : Int) (n : Nat) : Int := v / ((2 ^ n : Nat) : Int)

/-- `clamp(v, lo, hi)`. -/
def clamp (v lo hi : Int) : Int := min hi (max lo v)

/-! ### Channels -/

/-- The predecessor in the ring of channels, `(c + 3) mod 4` (00_scope.md R9). -/
def pred : Chan → Chan
  | .c0 => .c3
  | .c1 => .c0
  | .c2 => .c1
  | .c3 => .c2

/-- `ch[c]` of a bank. -/
def Bank.get (b : Bank) : Chan → ChannelRegs
  | .c0 => b.ch0
  | .c1 => b.ch1
  | .c2 => b.ch2
  | .c3 => b.ch3

/-- A bank with `ch[c]` replaced. -/
def Bank.set (b : Bank) (c : Chan) (r : ChannelRegs) : Bank :=
  match c with
  | .c0 => { b with ch0 := r }
  | .c1 => { b with ch1 := r }
  | .c2 => { b with ch2 := r }
  | .c3 => { b with ch3 := r }

/-- `ch[c]`. -/
def State.chan (s : State) (c : Chan) : ChannelRegs := s.ch.get c

/-- Replace `ch[c]`. -/
def State.setChan (s : State) (c : Chan) (r : ChannelRegs) : State := { s with ch := s.ch.set c r }

/-- The 2-bit encoding of ENVST (10_state.md R28). -/
def EnvState.bits : EnvState → BitVec 2
  | .release => 0
  | .attack => 1
  | .decay => 2
  | .sustain => 3

/-! ### WAVE, whose bit 3 is hard-wired to 0 (10_state.md R33; log 7) -/

/-- The bits of WAVE that exist. -/
def waveMask : BitVec 8 := 0xF7

/-- WAVE as software reads it. -/
def readWaveReg (r : ChannelRegs) : BitVec 8 := r.wave &&& waveMask

/-- Load WAVE; bit 3 stays 0. -/
def writeWaveReg (r : ChannelRegs) (flags : BitVec 8) : ChannelRegs := { r with wave := flags &&& waveMask }

/-! ### Faults (60_exceptions.md R190, R191) -/

/-- The value a fault leaves in FAULT (60_exceptions.md R190). -/
def faultNumber : FaultCode → BitVec 3
  | .illegalOpcode => 1
  | .reservedField => 2
  | .illegalSelect => 3
  | .pitchRange => 4

/-- `raise Fault(code)`: FAULT keeps the first fault since reset (60_exceptions.md R191). The block has no handler, so
this one operation is all there is of taking an exception (R197), and there is no return beside it (R198). -/
def raiseFault (code : FaultCode) (s : State) : State :=
  if s.fault = 0 then { s with fault := faultNumber code } else s

/-! ### Ports (44_host.md R173) -/

/-- Take the oldest input off the list: the block's position moves on by exactly one, whatever the input does
(10_state.md R21). -/
def dropInput (s : State) : State := { s with input := s.input.tail }

/-- The host sends `inputs` after everything it has sent already. -/
def State.issue (s : State) (inputs : List HostInput) : State := { s with input := s.input ++ inputs }

/-- `out(v)`: write OUT and drive the sample output port (43_sample.md R145). -/
def driveSample (v : BitVec 16) (s : State) : State := { s with out := v, samples := s.samples ++ [v] }

/-- Write RDATA and present it on the read-data port (44_host.md R172). -/
def presentRead (v : BitVec 32) (s : State) : State := { s with rdata := v, reads := s.reads ++ [v] }

/-- The reset input (70_reset_and_hazards.md R210): every register takes its reset value. The parameters stay, and
so do the lists of what the host sent and saw, which are no registers (log 4). -/
def resetInput (s : State) : State :=
  { State.resetWith s.cfg with input := s.input, samples := s.samples, reads := s.reads }

/-- A word that does not decode (30_encoding.md R77): nothing changes but FAULT. -/
def rejectWord (code : FaultCode) (s : State) : Host.Outcome State Fault Refusal := .next (raiseFault code s)

end Sys2Proof.Machine
end

