-- ==== Sys2Proof/Machine/Flags.lean ====
section
/-! DEFINITION. What plays the role of flags in the block (10_state.md R40): the waveform flags of WAVE (R32), the
gate test (43_sample.md R132), the wrap test of hard sync (R135) and the half-cycle test of ring modulation (R139). -/
namespace Sys2Proof.Machine

/-- WAVE[0], GATE. -/
def flagGate (r : ChannelRegs) : Bool := r.wave.getLsbD 0

/-- WAVE[1], SYNC. -/
def flagSync (r : ChannelRegs) : Bool := r.wave.getLsbD 1

/-- WAVE[2], RING. -/
def flagRing (r : ChannelRegs) : Bool := r.wave.getLsbD 2

/-- WAVE[4], TRI. -/
def flagTri (r : ChannelRegs) : Bool := r.wave.getLsbD 4

/-- WAVE[5], SAW. -/
def flagSaw (r : ChannelRegs) : Bool := r.wave.getLsbD 5

/-- WAVE[6], PULSE. -/
def flagPulse (r : ChannelRegs) : Bool := r.wave.getLsbD 6

/-- WAVE[7], NOISE. -/
def flagNoise (r : ChannelRegs) : Bool := r.wave.getLsbD 7

/-- "gate && GATE flag set": the gate is on when the register GATE and WAVE[0] both are (43_sample.md R132). -/
def gateOn (r : ChannelRegs) : Bool := r.gate = 1 && flagGate r

/-- `prevPhase < prevFreq`, the wrap test of hard sync on the predecessor's registers (43_sample.md R135). -/
def wrapTest (p : ChannelRegs) : Bool := decide (p.phase.toNat < p.freq.toNat)

/-- PHASE ≥ 2^27, the second half-cycle (43_sample.md R139). -/
def secondHalf (r : ChannelRegs) : Bool := decide (2 ^ 27 ≤ r.phase.toNat)

end Sys2Proof.Machine
end

