-- ==== Sys2Proof/Machine/Operands.lean ====
section
/-! DEFINITION. Operand forms: the signed pitch, the ADSR nibbles and what they select, and the zero extension of a
register into RDATA (30_encoding.md R75, 10_state.md R30 and R31, 44_host.md R172). -/
namespace Sys2Proof.Machine

/-- PITCH's operand, `q = sext_16(DATA[15:0])` (40_pitch.md R101). -/
def pitchOperand (q : BitVec 16) : Int := q.toInt

/-- ADSR as the register holds it: A, D, S, R from the top nibble down (10_state.md R30). -/
def packAdsr (a d su r : BitVec 4) : BitVec 16 := a ++ d ++ su ++ r

/-- A, the attack index: ADSR[15:12]. -/
def adsrA (v : BitVec 16) : BitVec 4 := v.extractLsb' 12 4

/-- D, the decay index: ADSR[11:8]. -/
def adsrD (v : BitVec 16) : BitVec 4 := v.extractLsb' 8 4

/-- S, the sustain level nibble: ADSR[7:4]. -/
def adsrS (v : BitVec 16) : BitVec 4 := v.extractLsb' 4 4

/-- R, the release index: ADSR[3:0]. -/
def adsrR (v : BitVec 16) : BitVec 4 := v.extractLsb' 0 4

/-- The attack increment ATTACK_TABLE[A] (10_state.md R31). -/
def attackIncrement (cfg : Config) (r : ChannelRegs) : Nat := (cfg.attackTable.get (adsrA r.adsr).toFin).toNat

/-- The decay decrement RELEASE_TABLE[D] (10_state.md R31). -/
def decayDecrement (cfg : Config) (r : ChannelRegs) : Nat := (cfg.releaseTable.get (adsrD r.adsr).toFin).toNat

/-- The release decrement RELEASE_TABLE[R] (10_state.md R31). -/
def releaseDecrement (cfg : Config) (r : ChannelRegs) : Nat := (cfg.releaseTable.get (adsrR r.adsr).toFin).toNat

/-- The sustain level S × 0x111111 (10_state.md R31). -/
def sustainLevel (r : ChannelRegs) : Nat := (adsrS r.adsr).toNat * 0x111111

/-- `zext_32` of a register (44_host.md R172). -/
def zext32 {w : Nat} (v : BitVec w) : BitVec 32 := v.setWidth 32

end Sys2Proof.Machine
end

