-- ==== Sys2Proof/Machine/Envelope.lean ====
section
/-! DEFINITION. The envelope generator (43_sample.md R132) and the envelope commands ADSR, GATE and ENVREL
(41_envelope_control.md). -/
namespace Sys2Proof.Machine

/-- ADSR (41_envelope_control.md R110). -/
def execAdsr (c : Chan) (a d su r : BitVec 4) (s : State) : Host.Outcome State Fault Refusal :=
  .next (s.setChan c { s.chan c with adsr := packAdsr a d su r })

/-- GATE (41_envelope_control.md R112). -/
def execGate (c : Chan) (b : BitVec 1) (s : State) : Host.Outcome State Fault Refusal :=
  .next (s.setChan c { s.chan c with gate := b })

/-- ENVREL (41_envelope_control.md R114). -/
def execEnvrel (c : Chan) (s : State) : Host.Outcome State Fault Refusal :=
  .next (s.setChan c { s.chan c with envst := .release })

/-- The greatest level, 0xFFFFFF (10_state.md R27). -/
def maxLevel : Nat := 0xFFFFFF

/-- The gate test, first half of `env_step` (43_sample.md R132): the state whose action this sample takes. -/
def gateTest (r : ChannelRegs) : EnvState :=
  if gateOn r then (if r.envst = .release then .attack else r.envst) else .release

/-- The ATTACK action with increment `inc`: add, clamp, then DECAY (43_sample.md R132). -/
def attackAction (inc : Nat) (r : ChannelRegs) : ChannelRegs :=
  if maxLevel ≤ r.level.toNat + inc then { r with level := BitVec.ofNat 24 maxLevel, envst := .decay }
  else { r with level := BitVec.ofNat 24 (r.level.toNat + inc) }

/-- The DECAY action with decrement `dec` and sustain level `sus`: subtract (the difference may be negative), clamp,
then SUSTAIN (43_sample.md R132). -/
def decayAction (dec sus : Nat) (r : ChannelRegs) : ChannelRegs :=
  if (r.level.toNat : Int) - dec ≤ sus then { r with level := BitVec.ofNat 24 sus, envst := .sustain }
  else { r with level := BitVec.ofNat 24 (r.level.toNat - dec) }

/-- The SUSTAIN action: hold, but re-enter ATTACK when the level is not the sustain level (43_sample.md R132). -/
def sustainAction (sus : Nat) (r : ChannelRegs) : ChannelRegs :=
  if r.level.toNat ≠ sus then { r with envst := .attack } else r

/-- The RELEASE action with decrement `dec`: subtract down to 0 (43_sample.md R132). -/
def releaseAction (dec : Nat) (r : ChannelRegs) : ChannelRegs :=
  { r with level := BitVec.ofNat 24 (r.level.toNat - dec) }

/-- `env_step(c)` on the channel's registers: the gate test, then exactly one action of the state that results
(43_sample.md R132). -/
def envStep (cfg : Config) (r : ChannelRegs) : ChannelRegs :=
  match gateTest r with
  | .attack => attackAction (attackIncrement cfg r) { r with envst := .attack }
  | .decay => decayAction (decayDecrement cfg r) (sustainLevel r) { r with envst := .decay }
  | .sustain => sustainAction (sustainLevel r) { r with envst := .sustain }
  | .release => releaseAction (releaseDecrement cfg r) { r with envst := .release }

end Sys2Proof.Machine
end

