-- ==== Sys2Proof/Machine/HostCommands.lean ====
section
/-! DEFINITION. The host interface commands NOP, ACTIVE and READ (44_host.md). -/
namespace Sys2Proof.Machine

/-- NOP (44_host.md R170). -/
def execNop (s : State) : Host.Outcome State Fault Refusal := .next s

/-- ACTIVE (44_host.md R171). -/
def execActive (c : Chan) (b : BitVec 1) (s : State) : Host.Outcome State Fault Refusal :=
  .next (s.setChan c { s.chan c with active := b })

/-- READ of a register whose value is `v`: RDATA <- `zext_32(v)`, on the read-data port (44_host.md R172). -/
def readRegister {w : Nat} (v : BitVec w) (s : State) : Host.Outcome State Fault Refusal := .next (presentRead (zext32 v) s)

/-- READ.PHASE, select 0 (20_memory.md R51). -/
def execReadPhase (c : Chan) (s : State) : Host.Outcome State Fault Refusal := readRegister (s.chan c).phase s

/-- READ.FREQ, select 1. -/
def execReadFreq (c : Chan) (s : State) : Host.Outcome State Fault Refusal := readRegister (s.chan c).freq s

/-- READ.PW, select 2. -/
def execReadPw (c : Chan) (s : State) : Host.Outcome State Fault Refusal := readRegister (s.chan c).pw s

/-- READ.LFSR, select 3. -/
def execReadLfsr (c : Chan) (s : State) : Host.Outcome State Fault Refusal := readRegister (s.chan c).lfsr s

/-- READ.LEVEL, select 4. -/
def execReadLevel (c : Chan) (s : State) : Host.Outcome State Fault Refusal := readRegister (s.chan c).level s

/-- READ.ENVST, select 5. -/
def execReadEnvst (c : Chan) (s : State) : Host.Outcome State Fault Refusal := readRegister (s.chan c).envst.bits s

/-- READ.WAVE, select 6; bit 3 reads as 0 (10_state.md R33). -/
def execReadWave (c : Chan) (s : State) : Host.Outcome State Fault Refusal := readRegister (readWaveReg (s.chan c)) s

/-- READ.GATE, select 7. -/
def execReadGate (c : Chan) (s : State) : Host.Outcome State Fault Refusal := readRegister (s.chan c).gate s

/-- READ.ADSR, select 8. -/
def execReadAdsr (c : Chan) (s : State) : Host.Outcome State Fault Refusal := readRegister (s.chan c).adsr s

/-- READ.ACTIVE, select 9. -/
def execReadActive (c : Chan) (s : State) : Host.Outcome State Fault Refusal := readRegister (s.chan c).active s

/-- READ.WAVEOUT, select 10. -/
def execReadWaveout (c : Chan) (s : State) : Host.Outcome State Fault Refusal := readRegister (s.chan c).waveout s

/-- READ.OUT, select 11. -/
def execReadOut (s : State) : Host.Outcome State Fault Refusal := readRegister s.out s

/-- READ.FAULT, select 12; reading does not clear it (44_host.md R172). -/
def execReadFault (s : State) : Host.Outcome State Fault Refusal := readRegister s.fault s

end Sys2Proof.Machine
end

