-- ==== Sys2Proof/Machine/Pitch.lean ====
section
/-! DEFINITION. The pitch-to-frequency converter and its two commands, PITCH and FREQ (40_pitch.md). -/
namespace Sys2Proof.Machine

/-- `n × SAMPLE_RATE ≤ F(q) × SAMPLE_RATE` raised to the 48th power, with `k = q − 232`: the decidable form of
`n ≤ F(q)` (40_pitch.md R100). -/
def pitchFits (sampleRate : Nat) (q : Int) (n : Nat) : Bool :=
  decide ((n * sampleRate) ^ 48 * 2 ^ (232 - q).toNat ≤ (440 * 2 ^ 28) ^ 48 * 2 ^ (q - 232).toNat)

/-- The greatest number whose bits from `bits` on are those of `acc` (a multiple of `2 ^ bits`) and that passes a
downward closed test, by binary search from the top bit. -/
def searchBits (test : Nat → Bool) : Nat → Nat → Nat
  | 0, acc => acc
  | b + 1, acc => searchBits test b (if test (acc + 2 ^ b) then acc + 2 ^ b else acc)

/-- How many bits hold every increment of pitch `q`: `440 × 2^28 < 2^37`, and 48 steps double. -/
def pitchBits (q : Int) : Nat := 38 + (q - 232).toNat / 48

/-- `pitch_to_freq(q) = floor(F(q))`, exactly (40_pitch.md R100). At SAMPLE_RATE = 0, which R7 excludes, every `n`
fits and the search answers the largest number of `pitchBits q` bits (log 8). -/
def pitchToFreq (cfg : Config) (q : Int) : Nat := searchBits (pitchFits cfg.sampleRate q) (pitchBits q) 0

/-- The largest increment FREQ holds, `2^28 − 1` (40_pitch.md R102). -/
def maxFreq : BitVec 28 := 0xFFFFFFF

/-- `ch[c].FREQ <- v`. -/
def setFreq (c : Chan) (v : BitVec 28) (s : State) : State := s.setChan c { s.chan c with freq := v }

/-- Load a converted increment: as it is where it fits 28 bits, else saturated with PITCH_RANGE (40_pitch.md R101 and
R102). -/
def loadIncrement (c : Chan) (n : Nat) (s : State) : State :=
  if n ≤ 2 ^ 28 - 1 then setFreq c (BitVec.ofNat 28 n) s
  else raiseFault .pitchRange (setFreq c maxFreq s)

/-- PITCH (40_pitch.md R101). -/
def execPitch (c : Chan) (q : BitVec 16) (s : State) : Host.Outcome State Fault Refusal :=
  .next (loadIncrement c (pitchToFreq s.cfg (pitchOperand q)) s)

/-- FREQ (40_pitch.md R104). -/
def execFreq (c : Chan) (f : BitVec 28) (s : State) : Host.Outcome State Fault Refusal :=
  .next (setFreq c f s)

end Sys2Proof.Machine
end

