-- ==== Sys2Proof/Machine/Waveform.lean ====
section
/-! DEFINITION. The waveform commands WAVE, PWSET and PWADD (42_waveform_control.md) and the waveform bytes of the
sample step (43_sample.md R138 to R142). -/
namespace Sys2Proof.Machine

/-- WAVE (42_waveform_control.md R120). A term with bit 3 set is no command of the block: were it issued, it would be
the illegal command of 10_state.md R33, which changes nothing but FAULT (log 7). -/
def execWave (c : Chan) (flags : BitVec 8) (s : State) : Host.Outcome State Fault Refusal :=
  if flags.getLsbD 3 then rejectWord .reservedField s
  else .next (s.setChan c (writeWaveReg (s.chan c) flags))

/-- PWSET (42_waveform_control.md R122). -/
def execPwset (c : Chan) (v : BitVec 28) (s : State) : Host.Outcome State Fault Refusal :=
  .next (s.setChan c { s.chan c with pw := v })

/-- PWADD: the sum wraps modulo 2^28 (42_waveform_control.md R123). -/
def execPwadd (c : Chan) (v : BitVec 28) (s : State) : Host.Outcome State Fault Refusal :=
  .next (s.setChan c { s.chan c with pw := (s.chan c).pw + v })

/-- `tri(c)`, with ring modulation by the predecessor `p` (43_sample.md R139). -/
def triByte (p r : ChannelRegs) : BitVec 8 :=
  let fold := r.phase.extractLsb' 19 8
  let t := if secondHalf r then ~~~fold else fold
  if flagRing r && secondHalf p then ~~~t else t

/-- `saw(c)` (43_sample.md R141). -/
def sawByte (r : ChannelRegs) : BitVec 8 := r.phase.extractLsb' 20 8

/-- `pulse(c)`: strictly above the threshold (43_sample.md R140). -/
def pulseByte (r : ChannelRegs) : BitVec 8 := if r.pw.toNat < r.phase.toNat then 0xFF else 0x00

/-- Noise output bit `i` at its place (43_sample.md R138). -/
def noiseBit (cfg : Config) (r : ChannelRegs) (i : Fin 8) : Nat :=
  (r.lfsr.getLsbD (cfg.noiseTaps.get i).val).toNat <<< i.val

/-- `noise(c)`: the sum of the eight tapped bits (43_sample.md R138). -/
def noiseByte (cfg : Config) (r : ChannelRegs) : BitVec 8 :=
  BitVec.ofNat 8 (noiseBit cfg r 0 + noiseBit cfg r 1 + noiseBit cfg r 2 + noiseBit cfg r 3 +
    noiseBit cfg r 4 + noiseBit cfg r 5 + noiseBit cfg r 6 + noiseBit cfg r 7)

/-- AND a waveform byte into `b` when its flag is set (43_sample.md R142). -/
def andIf (flag : Bool) (byte b : BitVec 8) : BitVec 8 := if flag then b &&& byte else b

/-- `combine(c)`: 0xFF ANDed with every enabled waveform byte (43_sample.md R142). -/
def combine (cfg : Config) (p r : ChannelRegs) : BitVec 8 :=
  andIf (flagNoise r) (noiseByte cfg r)
    (andIf (flagPulse r) (pulseByte r)
      (andIf (flagSaw r) (sawByte r)
        (andIf (flagTri r) (triByte p r) 0xFF)))

end Sys2Proof.Machine
end

