-- ==== Sys2Proof/Machine/Sample.lean ====
section
/-! DEFINITION. SAMPLE: the sample step of all four channels and the mixer (43_sample.md). -/
namespace Sys2Proof.Machine

/-- `phase_step(c)` (43_sample.md R134). -/
def phaseStep (r : ChannelRegs) : ChannelRegs := { r with phase := r.phase + r.freq }

/-- `hard_sync(c)` by the predecessor `p`: the product exact, the quotient rounded down (43_sample.md R135). -/
def hardSync (p r : ChannelRegs) : ChannelRegs :=
  if flagSync r && wrapTest p then
    { r with phase := BitVec.ofNat 28 (p.phase.toNat * r.freq.toNat / p.freq.toNat) }
  else r

/-- PHASE[27:23], the bits whose change clocks the noise register (43_sample.md R137). -/
def noisePhase (ph : BitVec 28) : BitVec 5 := ph.extractLsb' 23 5

/-- One clock of the noise register: shift left, feed bit 22 xor bit 17 into bit 0 (43_sample.md R137). -/
def lfsrNext (v : BitVec 23) : BitVec 23 := v.extractLsb' 0 22 ++ BitVec.ofBool (v.getLsbD 22 ^^ v.getLsbD 17)

/-- `noise_clock(c, old)` (43_sample.md R137). -/
def noiseClock (old : BitVec 28) (r : ChannelRegs) : ChannelRegs :=
  if noisePhase r.phase ≠ noisePhase old then { r with lfsr := lfsrNext r.lfsr } else r

/-- WAVEOUT <- `combine(c)` (43_sample.md R130). -/
def latchWave (cfg : Config) (p r : ChannelRegs) : ChannelRegs := { r with waveout := combine cfg p r }

/-- The sub-steps of one channel in R130's order, on its registers `r` and its predecessor's registers `p`, which
none of them writes. -/
def stepChannelRegs (cfg : Config) (p r : ChannelRegs) : ChannelRegs :=
  latchWave cfg p (noiseClock r.phase (hardSync p (phaseStep (envStep cfg r))))

/-- Step channel `c`; the predecessor is read as it stands now (43_sample.md R131). -/
def stepChannel (c : Chan) (s : State) : State := s.setChan c (stepChannelRegs s.cfg (s.chan (pred c)) (s.chan c))

/-- `contribution(c, b)` of a stepped channel, whose byte `b` is its WAVEOUT (43_sample.md R144). -/
def contribution (cfg : Config) (r : ChannelRegs) : Int :=
  if r.active = 1 then asr (((r.waveout.toNat : Int) - 128) * (r.level.toNat : Int)) cfg.mixShift else 0

/-- One turn of R130's loop: step channel `c` and add its contribution to the sum. -/
def mixChannel (acc : State × Int) (c : Chan) : State × Int :=
  let s := stepChannel c acc.1
  (s, acc.2 + contribution s.cfg (s.chan c))

/-- R130's loop over the channels 0, 1, 2, 3 in that order, from sum 0 (43_sample.md R131). -/
def mixChannels (s : State) : State × Int := [Chan.c0, .c1, .c2, .c3].foldl mixChannel (s, 0)

/-- The sum clamped to the signed 16-bit range, as a two's complement pattern (43_sample.md R145). -/
def clampSample (sum : Int) : BitVec 16 := BitVec.ofInt 16 (clamp sum (-32768) 32767)

/-- The whole sample step. -/
def sampleStep (s : State) : State :=
  let m := mixChannels s
  driveSample (clampSample m.2) m.1

/-- SAMPLE (43_sample.md R130). -/
def execSample (s : State) : Host.Outcome State Fault Refusal := .next (sampleStep s)

end Sys2Proof.Machine
end

