-- ==== Sys2Proof/Machine/Dispatch.lean ====
section
/-! DEFINITION. One arm for each command (30_encoding.md R76): a call of its meaning. -/
namespace Sys2Proof.Machine

def exec (i : Instr) (s : State) : Host.Outcome State Fault Refusal :=
  match i with
  | .nop => Sys2Proof.Machine.execNop s
  | .sample => Sys2Proof.Machine.execSample s
  | .pitch c q => Sys2Proof.Machine.execPitch c q s
  | .freq c f => Sys2Proof.Machine.execFreq c f s
  | .pwset c v => Sys2Proof.Machine.execPwset c v s
  | .pwadd c v => Sys2Proof.Machine.execPwadd c v s
  | .wave c flags => Sys2Proof.Machine.execWave c flags s
  | .gate c b => Sys2Proof.Machine.execGate c b s
  | .adsr c a d su r => Sys2Proof.Machine.execAdsr c a d su r s
  | .envrel c => Sys2Proof.Machine.execEnvrel c s
  | .active c b => Sys2Proof.Machine.execActive c b s
  | .readPhase c => Sys2Proof.Machine.execReadPhase c s
  | .readFreq c => Sys2Proof.Machine.execReadFreq c s
  | .readPw c => Sys2Proof.Machine.execReadPw c s
  | .readLfsr c => Sys2Proof.Machine.execReadLfsr c s
  | .readLevel c => Sys2Proof.Machine.execReadLevel c s
  | .readEnvst c => Sys2Proof.Machine.execReadEnvst c s
  | .readWave c => Sys2Proof.Machine.execReadWave c s
  | .readGate c => Sys2Proof.Machine.execReadGate c s
  | .readAdsr c => Sys2Proof.Machine.execReadAdsr c s
  | .readActive c => Sys2Proof.Machine.execReadActive c s
  | .readWaveout c => Sys2Proof.Machine.execReadWaveout c s
  | .readOut => Sys2Proof.Machine.execReadOut s
  | .readFault => Sys2Proof.Machine.execReadFault s

end Sys2Proof.Machine
end

