-- ==== Sys2Proof/Machine/Step.lean ====
section
/-! DEFINITION. One step of the block: take the oldest input of the host and do it (20_memory.md R57, 44_host.md R176).
The block has no program counter and fetches nothing (10_state.md R21). -/
namespace Sys2Proof.Machine

/-- A command word as it arrives on the port: decode it, then run it or record its fault (30_encoding.md R78). -/
def acceptWord (w : Word) (s : State) : Host.Outcome State Fault Refusal :=
  match decode w with
  | .ok i => exec i s
  | .error code => rejectWord code s

/-- One step. With nothing sent, the block waits and keeps all its state (60_exceptions.md R205; log 3). -/
def step (s : State) : Host.Outcome State Fault Refusal :=
  match s.input with
  | [] => .next s
  | .command w :: _ => acceptWord w (dropInput s)
  | .reset :: _ => .next (resetInput (dropInput s))

/-- The word of a table row as the host's next input, ahead of all it has sent (log 10). -/
def State.withFetchWord (s : State) (nbits w : Nat) : State :=
  { s with input := .command (tableWord nbits w) :: s.input }

end Sys2Proof.Machine
end

