-- ==== Sys2Proof/Machine/Assembler.lean ====
section
/-! DEFINITION. The host's side of the command port: the assembler (30_encoding.md R80), the pseudo-instructions (R81)
and the tick length (70_reset_and_hazards.md R215). No command of the block calls anything here. -/
namespace Sys2Proof.Machine

/-! ### Operands that must fit their field (30_encoding.md R80) -/

/-- `lo ≤ v ≤ hi`, or the assembler refuses the line. -/
def inRange (lo hi v : Int) : Option Int := if lo ≤ v ∧ v ≤ hi then some v else none

/-- `PITCH c, q`. -/
def asmPitch (c : Chan) (q : Int) : Option Instr :=
  (inRange (-32768) 32767 q).map fun q => .pitch c (BitVec.ofInt 16 q)

/-- `FREQ c, f`. -/
def asmFreq (c : Chan) (f : Int) : Option Instr :=
  (inRange 0 (2 ^ 28 - 1) f).map fun f => .freq c (BitVec.ofInt 28 f)

/-- `PWSET c, v`. -/
def asmPwset (c : Chan) (v : Int) : Option Instr :=
  (inRange 0 (2 ^ 28 - 1) v).map fun v => .pwset c (BitVec.ofInt 28 v)

/-- The negative-v rule: −2^27 ≤ v < 0 stands for v + 2^28. -/
def wrapNegative (v : Int) : Int := if -2 ^ 27 ≤ v ∧ v < 0 then v + 2 ^ 28 else v

/-- `PWADD c, v`. -/
def asmPwadd (c : Chan) (v : Int) : Option Instr :=
  (inRange 0 (2 ^ 28 - 1) (wrapNegative v)).map fun v => .pwadd c (BitVec.ofInt 28 v)

/-- `WAVE c, flags`: a value with bit 3 set or above 0xFF is refused. -/
def asmWave (c : Chan) (flags : Int) : Option Instr :=
  (inRange 0 0xFF flags).bind fun v =>
    if (BitVec.ofInt 8 v).getLsbD 3 then none else some (.wave c (BitVec.ofInt 8 v))

/-- A one-bit operand. -/
def asmBit (b : Int) : Option (BitVec 1) := (inRange 0 1 b).map (BitVec.ofInt 1)

/-- `GATE c, b`. -/
def asmGate (c : Chan) (b : Int) : Option Instr := (asmBit b).map fun b => .gate c b

/-- `ACTIVE c, b`. -/
def asmActive (c : Chan) (b : Int) : Option Instr := (asmBit b).map fun b => .active c b

/-- A nibble of ADSR. -/
def asmNibble (v : Int) : Option (BitVec 4) := (inRange 0 15 v).map (BitVec.ofInt 4)

/-- `ADSR c, a, d, s, r`. -/
def asmAdsr (c : Chan) (a d su r : Int) : Option Instr := do
  let a ← asmNibble a
  let d ← asmNibble d
  let su ← asmNibble su
  let r ← asmNibble r
  return .adsr c a d su r

/-- `ADSR c, 0xADSR`: the four nibbles in one number. -/
def asmAdsrPacked (c : Chan) (v : Int) : Option Instr :=
  (inRange 0 0xFFFF v).map fun v =>
    .adsr c (BitVec.ofInt 4 (v / 4096)) (BitVec.ofInt 4 (v / 256)) (BitVec.ofInt 4 (v / 16)) (BitVec.ofInt 4 v)

/-! ### Pseudo-instructions (30_encoding.md R81) -/

/-- `NOTE c, n, off`, and `NOTE c, n` with off = 0: note n in 1 to 96, off in quarter-semitones. -/
def asmNote (c : Chan) (n off : Int) : Option (List Instr) :=
  (inRange 1 96 n).bind fun n => (asmPitch c (4 * n + off)).map fun i => [i]

/-- `NOTEOFF c`. -/
def noteOff (c : Chan) : List Instr := [.gate c 0]

/-- `BIND c, a, d, s, r`, after its nibbles have been read into an ADSR command. -/
def bindWith (c : Chan) (adsr : Instr) : List Instr := [adsr, .gate c 1, .envrel c]

/-- `SILENCE c`. -/
def silence (c : Chan) : List Instr := [.gate c 0, .envrel c]

/-- `MUTE c`. -/
def mute (c : Chan) : List Instr := [.active c 0]

/-- `UNMUTE c`. -/
def unmute (c : Chan) : List Instr := [.active c 1]

/-- `RENDER k`. -/
def render (k : Nat) : List Instr := List.replicate k .sample

/-- The host's tick length L (70_reset_and_hazards.md R215, 92_eei_decisions.md D7). -/
def tickLength (cfg : Config) : Nat := cfg.sampleRate / 50

/-- One tick of the host: its register writes, then its L samples (70_reset_and_hazards.md R215). -/
def tickCommands (cfg : Config) (writes : List Instr) : List Instr := writes ++ render (tickLength cfg)

/-- Send commands as words. -/
def commandsOf (is : List Instr) : List HostInput := is.map fun i => .command (encode i)

/-! ### Text (30_encoding.md R80; lexical details: log 13) -/

/-- White space inside a line. -/
def isBlank (x : Char) : Bool := x = ' ' || x = '\t' || x = '\r'

/-- A text without the white space at both ends. -/
def trimBlanks (l : List Char) : List Char := ((l.dropWhile isBlank).reverse.dropWhile isBlank).reverse

/-- The pieces of a text between separators. -/
def pieces (sep : Char) : List Char → List (List Char)
  | [] => [[]]
  | x :: xs =>
    match pieces sep xs with
    | [] => [[x]]
    | p :: ps => if x = sep then [] :: p :: ps else (x :: p) :: ps

/-- The value of a digit, in decimal or hex. -/
def digitValue (x : Char) : Option Nat :=
  let n := x.toNat
  if 48 ≤ n ∧ n ≤ 57 then some (n - 48)
  else if 65 ≤ n ∧ n ≤ 70 then some (n - 55)
  else if 97 ≤ n ∧ n ≤ 102 then some (n - 87)
  else none

/-- The value of a string of digits after those already read into `acc`. -/
def digitsValue (base : Nat) : Nat → List Char → Option Nat
  | acc, [] => some acc
  | acc, x :: xs =>
    (digitValue x).bind fun d => if d < base then digitsValue base (acc * base + d) xs else none

/-- A number: decimal, or hex after 0x. -/
def parseNat : List Char → Option Nat
  | [] => none
  | ['0', 'x'] => none
  | '0' :: 'x' :: ds => digitsValue 16 0 ds
  | ds => digitsValue 10 0 ds

/-- A signed number. -/
def parseInt : List Char → Option Int
  | '-' :: ds => (parseNat ds).map fun n => -(n : Int)
  | ds => (parseNat ds).map fun n => (n : Int)

/-- A channel operand: `c0` to `c3`, or a bare 0 to 3. -/
def parseChan : List Char → Option Chan
  | ['c', '0'] | ['0'] => some .c0
  | ['c', '1'] | ['1'] => some .c1
  | ['c', '2'] | ['2'] => some .c2
  | ['c', '3'] | ['3'] => some .c3
  | _ => none

/-- What a table of names gives for a text. -/
def lookupName {α : Type} (table : List (String × α)) (word : List Char) : Option α :=
  (table.find? fun e => e.1.toList = word).map fun e => e.2

/-- The flag names of WAVE. -/
def flagNames : List (String × Nat) :=
  [("GATE", 0x01), ("SYNC", 0x02), ("RING", 0x04), ("TRI", 0x10), ("SAW", 0x20), ("PULSE", 0x40), ("NOISE", 0x80)]

/-- Names joined by a bar, as one flag value. -/
def joinFlags : List (List Char) → Option Nat
  | [] => some 0
  | p :: ps => (lookupName flagNames (trimBlanks p)).bind fun v => (joinFlags ps).map fun u => v ||| u

/-- The flags operand: a number, NONE, or names joined by a bar. -/
def parseFlags (l : List Char) : Option Int :=
  if l = "NONE".toList then some 0
  else match parseInt l with
    | some v => some v
    | none => (joinFlags (pieces '|' l)).map fun n => (n : Int)

/-- READ of a channel register, by its name. -/
def channelReads : List (String × (Chan → Instr)) :=
  [("PHASE", .readPhase), ("FREQ", .readFreq), ("PW", .readPw), ("LFSR", .readLfsr), ("LEVEL", .readLevel),
   ("ENVST", .readEnvst), ("WAVE", .readWave), ("GATE", .readGate), ("ADSR", .readAdsr), ("ACTIVE", .readActive),
   ("WAVEOUT", .readWaveout)]

/-- READ of a global register, by its name. -/
def globalReads : List (String × Instr) := [("OUT", .readOut), ("FAULT", .readFault)]

/-- The words a line may begin with. -/
inductive AsmWord
  | nop | sample | pitch | freq | pwset | pwadd | wave | gate | adsr | envrel | active | read
  | note | noteoff | bind | silence | mute | unmute | render
  deriving DecidableEq, Repr

/-- Their spelling. -/
def asmWords : List (String × AsmWord) :=
  [("NOP", .nop), ("SAMPLE", .sample), ("PITCH", .pitch), ("FREQ", .freq), ("PWSET", .pwset), ("PWADD", .pwadd),
   ("WAVE", .wave), ("GATE", .gate), ("ADSR", .adsr), ("ENVREL", .envrel), ("ACTIVE", .active), ("READ", .read),
   ("NOTE", .note), ("NOTEOFF", .noteoff), ("BIND", .bind), ("SILENCE", .silence), ("MUTE", .mute),
   ("UNMUTE", .unmute), ("RENDER", .render)]

/-- A command of a channel and one number. -/
def asmOne (make : Chan → Int → Option Instr) (c v : List Char) : Option (List Instr) := do
  let c ← parseChan c
  let v ← parseInt v
  let i ← make c v
  return [i]

/-- The nibbles form of ADSR, as text. -/
def asmNibbles (c : Chan) (a d su r : List Char) : Option Instr := do
  let a ← parseInt a
  let d ← parseInt d
  let su ← parseInt su
  let r ← parseInt r
  asmAdsr c a d su r

/-- The commands of one line (30_encoding.md R80 and R81); none where the assembler refuses the line. -/
def assembleOperands (k : AsmWord) (ops : List (List Char)) : Option (List Instr) :=
  match k, ops with
  | .nop, [] => some [.nop]
  | .sample, [] => some [.sample]
  | .pitch, [c, q] => asmOne asmPitch c q
  | .freq, [c, f] => asmOne asmFreq c f
  | .pwset, [c, v] => asmOne asmPwset c v
  | .pwadd, [c, v] => asmOne asmPwadd c v
  | .wave, [c, flags] => do
    let c ← parseChan c
    let v ← parseFlags flags
    let i ← asmWave c v
    return [i]
  | .gate, [c, b] => asmOne asmGate c b
  | .adsr, [c, v] => asmOne asmAdsrPacked c v
  | .adsr, [c, a, d, su, r] => do
    let c ← parseChan c
    let i ← asmNibbles c a d su r
    return [i]
  | .envrel, [c] => (parseChan c).map fun c => [.envrel c]
  | .active, [c, b] => asmOne asmActive c b
  | .read, [c, sel] => do
    let c ← parseChan c
    let make ← lookupName channelReads sel
    return [make c]
  | .read, [sel] => (lookupName globalReads sel).map fun i => [i]
  | .note, [c, n] => do
    let c ← parseChan c
    let n ← parseInt n
    asmNote c n 0
  | .note, [c, n, off] => do
    let c ← parseChan c
    let n ← parseInt n
    let off ← parseInt off
    asmNote c n off
  | .noteoff, [c] => (parseChan c).map noteOff
  | .bind, [c, a, d, su, r] => do
    let c ← parseChan c
    let i ← asmNibbles c a d su r
    return bindWith c i
  | .silence, [c] => (parseChan c).map silence
  | .mute, [c] => (parseChan c).map mute
  | .unmute, [c] => (parseChan c).map unmute
  | .render, [k] => (parseNat k).map render
  | _, _ => none

/-- A line without its comment and outer white space. -/
def lineBody (line : List Char) : List Char := trimBlanks (line.takeWhile fun x => x ≠ '#')

/-- The operands after a line's first word. -/
def lineOperands (body : List Char) : List (List Char) :=
  let rest := trimBlanks (body.dropWhile fun x => !isBlank x)
  if rest = [] then [] else (pieces ',' rest).map trimBlanks

/-- The commands of one line of text; a line with no command gives none. -/
def parseLine (line : List Char) : Option (List Instr) :=
  let body := lineBody line
  if body = [] then some []
  else (lookupName asmWords (body.takeWhile fun x => !isBlank x)).bind fun k => assembleOperands k (lineOperands body)

/-- The words of one line; `.word` writes a raw word (95_test_vectors.md P4). -/
def assembleLine (line : List Char) : Option (List Word) :=
  let body := lineBody line
  if body.takeWhile (fun x => !isBlank x) = ".word".toList then
    match lineOperands body with
    | [w] => (parseNat w).bind fun n => if n < 2 ^ 40 then some [BitVec.ofNat 40 n] else none
    | _ => none
  else (parseLine line).map fun is => is.map encode

/-- The words of a program, one command a line. -/
def assembleLines : List (List Char) → Option (List Word)
  | [] => some []
  | l :: ls => (assembleLine l).bind fun ws => (assembleLines ls).map fun vs => ws ++ vs

end Sys2Proof.Machine
end

