-- ==== Sys2Proof/Safety.lean ====
section
/-! DEFINITION. What the claims about the block are stated in: its invariant, the frames, and what counts as a run
without fault. -/
namespace Sys2Proof.Machine

/-- The state a step answers, when it answers one. -/
def nextOf : Host.Outcome State Fault Refusal → Option State
  | .next s => some s
  | .fault _ => none
  | .refused _ => none

/-! ### The invariant (10_state.md R42) -/

/-- What R42 says of one channel beyond the widths of its registers: a nonzero LFSR and WAVE[3] = 0. -/
structure ChannelRegs.Inv (r : ChannelRegs) : Prop where
  lfsr_ne_zero : r.lfsr ≠ 0
  wave_reserved : r.wave.getLsbD 3 = false

/-- The invariant of the reachable states (10_state.md R42): the instance's parameters are lawful (00_scope.md R7),
every channel keeps its own, and FAULT is one of the codes 0 to 4. -/
structure State.Inv (s : State) : Prop where
  lawful : s.cfg.Lawful
  channel : ∀ c, (s.chan c).Inv
  fault_le : s.fault.toNat ≤ 4

/-- No fault since reset (10_state.md R37): what a claim about a clean run is premised on. -/
abbrev State.NoFault (s : State) : Prop := s.fault = 0

/-! ### Frames -/

/-- Every channel but `c` is unchanged. -/
def OtherChannelsSame (c : Chan) (s t : State) : Prop := ∀ d, d ≠ c → t.chan d = s.chan d

/-- The global registers are unchanged. -/
structure GlobalsSame (s t : State) : Prop where
  out : t.out = s.out
  fault : t.fault = s.fault
  rdata : t.rdata = s.rdata

/-- The parameters and the bookkeeping of the ports are unchanged. -/
structure PortsSame (s t : State) : Prop where
  cfg : t.cfg = s.cfg
  input : t.input = s.input
  samples : t.samples = s.samples
  reads : t.reads = s.reads

/-- The one thing that changes from `s` to `t` is `ch[c]`, which becomes `r`. -/
structure OnlyChannelBecomes (c : Chan) (r : ChannelRegs) (s t : State) : Prop where
  written : t.chan c = r
  others : OtherChannelsSame c s t
  globals : GlobalsSame s t
  ports : PortsSame s t

/-- The things that change from `s` to `t` are RDATA, which becomes `v`, and the read-data port, which presents it. -/
structure OnlyReadBecomes (v : BitVec 32) (s t : State) : Prop where
  rdata : t.rdata = v
  reads : t.reads = s.reads ++ [v]
  channels : ∀ c, t.chan c = s.chan c
  out : t.out = s.out
  fault : t.fault = s.fault
  cfg : t.cfg = s.cfg
  input : t.input = s.input
  samples : t.samples = s.samples

/-- Every register of 10_state.md R20 is the same in the two states. -/
structure RegistersSame (s t : State) : Prop where
  channels : ∀ c, t.chan c = s.chan c
  globals : GlobalsSame s t

/-! ### The illegal words (30_encoding.md R77), in arithmetic on the word's number -/

/-- OP, w[39:36]. -/
def opNumber (w : Word) : Nat := w.toNat / 2 ^ 36

/-- CH, w[35:34]. -/
def chNumber (w : Word) : Nat := w.toNat / 2 ^ 34 % 4

/-- Z, w[33:32]. -/
def zNumber (w : Word) : Nat := w.toNat / 2 ^ 32 % 4

/-- DATA, w[31:0]. -/
def dataNumber (w : Word) : Nat := w.toNat % 2 ^ 32

/-- READ's select, w[3:0]. -/
def selNumber (w : Word) : Nat := w.toNat % 16

/-- A bit of DATA `d` that must be zero for opcode `op` is set: the MBZ column of 30_encoding.md R75. -/
abbrev MbzSet (op d : Nat) : Prop :=
  (op = 0x0 ∧ d ≠ 0) ∨ (op = 0x1 ∧ d ≠ 0) ∨ (op = 0x2 ∧ 2 ^ 16 ≤ d) ∨ (op = 0x3 ∧ 2 ^ 28 ≤ d) ∨
  (op = 0x4 ∧ 2 ^ 28 ≤ d) ∨ (op = 0x5 ∧ 2 ^ 28 ≤ d) ∨ (op = 0x6 ∧ (2 ^ 8 ≤ d ∨ d / 8 % 2 = 1)) ∨
  (op = 0x7 ∧ 2 ≤ d) ∨ (op = 0x8 ∧ 2 ^ 16 ≤ d) ∨ (op = 0x9 ∧ d ≠ 0) ∨ (op = 0xA ∧ 2 ≤ d) ∨ (op = 0xB ∧ 16 ≤ d)

/-- The illegal words (30_encoding.md R77). -/
abbrev IllegalWord (w : Word) : Prop :=
  0xC ≤ opNumber w ∨ zNumber w ≠ 0 ∨ MbzSet (opNumber w) (dataNumber w) ∨
  (chNumber w ≠ 0 ∧ (opNumber w = 0x0 ∨ opNumber w = 0x1 ∨
    (opNumber w = 0xB ∧ (selNumber w = 11 ∨ selNumber w = 12)))) ∨
  (opNumber w = 0xB ∧ 13 ≤ selNumber w)

/-! ### Commands one after another, and the predecessor a sample step sees -/

/-- Run commands in order (20_memory.md R57). -/
def execAll : List Instr → State → Host.Outcome State Fault Refusal
  | [], s => .next s
  | i :: is, s =>
    match exec i s with
    | .next t => execAll is t
    | .fault r => .fault r
    | .refused r => .refused r

/-- READ of any select. -/
def isRead : Instr → Bool
  | .nop | .sample | .pitch _ _ | .freq _ _ | .pwset _ _ | .pwadd _ _ | .wave _ _ | .gate _ _ | .adsr _ _ _ _ _
  | .envrel _ | .active _ _ => false
  | .readPhase _ | .readFreq _ | .readPw _ | .readLfsr _ | .readLevel _ | .readEnvst _ | .readWave _ | .readGate _
  | .readAdsr _ | .readActive _ | .readWaveout _ | .readOut | .readFault => true

/-- The predecessor's registers that a sample step from `s` to `t` reads for channel `c`: channel 3 as the previous
sample left it for channel 0, the stepped predecessor for the others (43_sample.md R131). -/
def seenPred (s t : State) : Chan → ChannelRegs
  | .c0 => s.chan .c3
  | .c1 => t.chan .c0
  | .c2 => t.chan .c1
  | .c3 => t.chan .c2

/-! ### The operands of the sample step, in arithmetic on the registers' numbers -/

/-- ATTACK_TABLE[A], A = ADSR[15:12] (10_state.md R30, R31). -/
def attackOf (cfg : Config) (r : ChannelRegs) : Nat := (cfg.attackTable.get (Fin.ofNat 16 (r.adsr.toNat / 2 ^ 12))).toNat

/-- RELEASE_TABLE[D], D = ADSR[11:8] (10_state.md R30, R31). -/
def decayOf (cfg : Config) (r : ChannelRegs) : Nat := (cfg.releaseTable.get (Fin.ofNat 16 (r.adsr.toNat / 2 ^ 8))).toNat

/-- RELEASE_TABLE[R], R = ADSR[3:0] (10_state.md R30, R31). -/
def releaseOf (cfg : Config) (r : ChannelRegs) : Nat := (cfg.releaseTable.get (Fin.ofNat 16 r.adsr.toNat)).toNat

/-- S × 0x111111, S = ADSR[7:4] (10_state.md R30, R31). -/
def sustainOf (r : ChannelRegs) : Nat := r.adsr.toNat / 2 ^ 4 % 16 * 0x111111

/-- The gate is on: GATE = 1 and WAVE[0] = 1 (43_sample.md R132). -/
abbrev GateIsOn (r : ChannelRegs) : Prop := r.gate = 1 ∧ r.wave.getLsbD 0 = true

/-- Channel `r` is synced by predecessor `p` in a sample step: WAVE[1] = 1 and the wrap test (43_sample.md R135). -/
abbrev SyncedBy (p r : ChannelRegs) : Prop := r.wave.getLsbD 1 = true ∧ p.phase.toNat < p.freq.toNat

/-- The triangle byte before ring modulation as a number: folded at 2^27 (43_sample.md R139). -/
def triangleOf (r : ChannelRegs) : Nat :=
  if r.phase.toNat < 2 ^ 27 then r.phase.toNat / 2 ^ 19 else 255 - (r.phase.toNat - 2 ^ 27) / 2 ^ 19

/-- Bit `i` of the triangle byte, complemented by ring modulation when the predecessor `p` is in its second half-cycle
(43_sample.md R139). -/
def triangleBit (p r : ChannelRegs) (i : Nat) : Bool :=
  (triangleOf r).testBit i ^^ (r.wave.getLsbD 2 && decide (2 ^ 27 ≤ p.phase.toNat))

/-- A channel's contribution to the sum (43_sample.md R144). -/
def contributionOf (cfg : Config) (r : ChannelRegs) : Int :=
  if r.active = 1 then ((r.waveout.toNat : Int) - 128) * (r.level.toNat : Int) / 2 ^ cfg.mixShift else 0

/-- The sum of the contributions of the three channels other than `c`. -/
def otherContributions (cfg : Config) (s : State) : Chan → Int
  | .c0 => contributionOf cfg (s.chan .c1) + contributionOf cfg (s.chan .c2) + contributionOf cfg (s.chan .c3)
  | .c1 => contributionOf cfg (s.chan .c0) + contributionOf cfg (s.chan .c2) + contributionOf cfg (s.chan .c3)
  | .c2 => contributionOf cfg (s.chan .c0) + contributionOf cfg (s.chan .c1) + contributionOf cfg (s.chan .c3)
  | .c3 => contributionOf cfg (s.chan .c0) + contributionOf cfg (s.chan .c1) + contributionOf cfg (s.chan .c2)

/-- What a sample does to LEVEL and ENVST of a channel whose gate is on (43_sample.md R132), from `r` to `t`: ATTACK is
entered from RELEASE, or from SUSTAIN where LEVEL is not the sustain level; from every other state the envelope goes on
where it stands (41_envelope_control.md R113). -/
structure OpenGateSample (cfg : Config) (r t : ChannelRegs) : Prop where
  attack : r.envst = .release ∨ r.envst = .attack →
    t.level.toNat = min 0xFFFFFF (r.level.toNat + attackOf cfg r) ∧
    t.envst = if t.level = 0xFFFFFF then .decay else .attack
  decay : r.envst = .decay →
    t.level.toNat = max (sustainOf r) (r.level.toNat - decayOf cfg r) ∧
    t.envst = if t.level.toNat = sustainOf r then .sustain else .decay
  sustain : r.envst = .sustain →
    t.level = r.level ∧ t.envst = if r.level.toNat = sustainOf r then .sustain else .attack

/-! ### Silence (70_reset_and_hazards.md R211) -/

/-- Every envelope is in RELEASE at level 0 with its gate off. -/
def State.Silent (s : State) : Prop :=
  ∀ c, (s.chan c).level = 0 ∧ (s.chan c).envst = .release ∧ ¬GateIsOn (s.chan c)

end Sys2Proof.Machine
end

