-- ==== Sys2Proof/Certificates/Slice0/Obligations.lean ====
section
/-! DEFINITION. The statements about the block, each from the rules of spec/ its docstring names. -/

open Sys2Proof Sys2Proof.Machine

/-! ## Encoding (30_encoding.md) -/

/-- R75, R76: no bit of an encoding is dropped, for every command with every operand its field admits. -/
def Obligations.DecodeOfEncodeIsTheCommand : Prop :=
  ∀ i : Instr, i.WellFormed → decode (encode i) = .ok i

/-- R77: each legal word has one meaning; the decoder answers only well-formed commands, whose encoding is the word. -/
def Obligations.EncodeOfDecodeIsTheWord : Prop :=
  ∀ (w : Word) (i : Instr), decode w = .ok i → i.WellFormed ∧ encode i = w

/-- R77: a word is illegal exactly under the conditions the rule lists; every other word is one row of the opcode
table, the row of the command it decodes to; an illegal command changes nothing but FAULT. -/
def Obligations.EveryWordIsOneTableRowOrIllegal : Prop :=
  ∀ w : Word,
    (IllegalWord w ↔ ∃ k, decode w = .error k) ∧
    (IllegalWord w ↔ ∀ row ∈ opcodeTable, row.matches w = false) ∧
    (∀ i, decode w = .ok i → ∀ row ∈ opcodeTable, (row.matches w = true ↔ row.mnemonic = i.mnemonic)) ∧
    (∀ s, IllegalWord w → ∃ f, acceptWord w s = .next { s with fault := f })

/-- R78: the checks in their order, on the number of the word; a word that passes them all is the command whose
encoding it is. -/
def Obligations.DecodeChecksInOrder : Prop :=
  ∀ w : Word,
    (0xC ≤ opNumber w → decode w = .error .illegalOpcode) ∧
    (opNumber w < 0xC → (zNumber w ≠ 0 ∨ MbzSet (opNumber w) (dataNumber w)) → decode w = .error .reservedField) ∧
    (opNumber w ≤ 0x1 → zNumber w = 0 → ¬MbzSet (opNumber w) (dataNumber w) → chNumber w ≠ 0 →
      decode w = .error .reservedField) ∧
    (opNumber w = 0xB → zNumber w = 0 → ¬MbzSet (opNumber w) (dataNumber w) → 13 ≤ selNumber w →
      decode w = .error .illegalSelect) ∧
    (opNumber w = 0xB → zNumber w = 0 → ¬MbzSet (opNumber w) (dataNumber w) →
      (selNumber w = 11 ∨ selNumber w = 12) → chNumber w ≠ 0 → decode w = .error .reservedField) ∧
    (¬IllegalWord w → ∃ i, decode w = .ok i ∧ encode i = w)

/-- R192, R193, R194: what an illegal word leaves in FAULT, with the priority of the checks; nothing else changes. FAULT
keeps an earlier code (R191). -/
def Obligations.IllegalCommandRecordsItsCode : Prop :=
  ∀ (s : State) (w : Word), IllegalWord w →
    ∃ f, acceptWord w s = .next { s with fault := f } ∧
      (s.fault = 0 → 0xC ≤ opNumber w → f = 1) ∧
      (s.fault = 0 → opNumber w < 0xC → (zNumber w ≠ 0 ∨ MbzSet (opNumber w) (dataNumber w)) → f = 2) ∧
      (s.fault = 0 → opNumber w < 0xC → zNumber w = 0 → ¬MbzSet (opNumber w) (dataNumber w) → chNumber w ≠ 0 →
        (opNumber w ≤ 0x1 ∨ (opNumber w = 0xB ∧ (selNumber w = 11 ∨ selNumber w = 12))) → f = 2) ∧
      (s.fault = 0 → opNumber w = 0xB → zNumber w = 0 → ¬MbzSet (opNumber w) (dataNumber w) → 13 ≤ selNumber w →
        f = 3) ∧
      (s.fault ≠ 0 → f = s.fault)

/-- R82: the encoding examples, as text, as commands and as words. (The spec derives them from R70, R75 and R76.) -/
def Obligations.EncodingExamples : Prop :=
  ∀ e ∈ ([("NOP", .nop, 0x0000000000), ("SAMPLE", .sample, 0x1000000000),
      ("PITCH c1, 232", .pitch .c1 232, 0x24000000E8), ("PITCH c0, -4", .pitch .c0 0xFFFC, 0x200000FFFC),
      ("FREQ c2, 0x8000000", .freq .c2 0x8000000, 0x3808000000),
      ("PWSET c3, 0x4000000", .pwset .c3 0x4000000, 0x4C04000000),
      ("PWADD c0, -0x10000", .pwadd .c0 0xFFF0000, 0x500FFF0000),
      ("WAVE c0, GATE|PULSE|TRI", .wave .c0 0x51, 0x6000000051), ("GATE c3, 1", .gate .c3 1, 0x7C00000001),
      ("ADSR c0, 0, 9, 10, 0", .adsr .c0 0 9 10 0, 0x80000009A0), ("ENVREL c2", .envrel .c2, 0x9800000000),
      ("ACTIVE c1, 0", .active .c1 0, 0xA400000000), ("READ c2, LEVEL", .readLevel .c2, 0xB800000004),
      ("READ OUT", .readOut, 0xB00000000B)] : List (String × Instr × Word)),
    assembleLine e.1.toList = some [e.2.2] ∧ encode e.2.1 = e.2.2 ∧ decode e.2.2 = .ok e.2.1

/-- R52: a host's bytes, least significant first, for words and for samples. -/
def Obligations.HostBytesAreLittleEndian : Prop :=
  (∀ (w : Word) (rest : List Byte), decodeBytes (bytesOfWord w ++ rest) = some (decode w, rest)) ∧
  (∀ w : Word, (bytesOfWord w).length = 5 ∧
    ∀ (k : Nat) (b : Byte), (bytesOfWord w)[k]? = some b → b.toNat = w.toNat / 2 ^ (8 * k) % 2 ^ 8) ∧
  (∀ v : BitVec 16, (bytesOfSample v).length = 2 ∧
    ∀ (k : Nat) (b : Byte), (bytesOfSample v)[k]? = some b → b.toNat = v.toNat / 2 ^ (8 * k) % 2 ^ 8)

/-- R80: every command of a line the assembler accepts is well-formed, for any text whatever. -/
def Obligations.AssembledCommandsAreWellFormed : Prop :=
  ∀ (line : List Char) (is : List Instr), parseLine line = some is → ∀ i ∈ is, i.WellFormed

/-- R80: the operands that fit their fields are in the command, each in its own, and an operand that does not fit is
refused; for ADSR both the form with four nibbles and the form with one number. -/
def Obligations.AssemblerFitsOperandsOrRefuses : Prop :=
  ∀ (c : Chan) (v a d su r : Int),
    (-32768 ≤ v ∧ v ≤ 32767 → ∃ q, asmPitch c v = some (.pitch c q) ∧ q.toInt = v) ∧
    (v < -32768 ∨ 32767 < v → asmPitch c v = none) ∧
    (0 ≤ v ∧ v < 2 ^ 28 → ∃ f, asmFreq c v = some (.freq c f) ∧ (f.toNat : Int) = v) ∧
    (v < 0 ∨ 2 ^ 28 ≤ v → asmFreq c v = none) ∧
    (0 ≤ v ∧ v < 2 ^ 28 → ∃ u, asmPwset c v = some (.pwset c u) ∧ (u.toNat : Int) = v) ∧
    (v < 0 ∨ 2 ^ 28 ≤ v → asmPwset c v = none) ∧
    (0 ≤ v ∧ v < 2 ^ 28 → ∃ u, asmPwadd c v = some (.pwadd c u) ∧ (u.toNat : Int) = v) ∧
    (-2 ^ 27 ≤ v ∧ v < 0 → ∃ u, asmPwadd c v = some (.pwadd c u) ∧ (u.toNat : Int) = v + 2 ^ 28) ∧
    (v < -2 ^ 27 ∨ 2 ^ 28 ≤ v → asmPwadd c v = none) ∧
    (0 ≤ v ∧ v < 256 ∧ v / 8 % 2 = 0 → ∃ u, asmWave c v = some (.wave c u) ∧ (u.toNat : Int) = v) ∧
    (v < 0 ∨ 256 ≤ v ∨ v / 8 % 2 = 1 → asmWave c v = none) ∧
    (0 ≤ v ∧ v ≤ 1 → ∃ b, asmGate c v = some (.gate c b) ∧ asmActive c v = some (.active c b) ∧ (b.toNat : Int) = v) ∧
    (v < 0 ∨ 1 < v → asmGate c v = none ∧ asmActive c v = none) ∧
    (0 ≤ v ∧ v ≤ 15 → ∃ n, asmNibble v = some n ∧ (n.toNat : Int) = v) ∧
    (v < 0 ∨ 15 < v → asmNibble v = none) ∧
    ((0 ≤ a ∧ a ≤ 15) ∧ (0 ≤ d ∧ d ≤ 15) ∧ (0 ≤ su ∧ su ≤ 15) ∧ (0 ≤ r ∧ r ≤ 15) → ∃ na nd ns nr,
      asmAdsr c a d su r = some (.adsr c na nd ns nr) ∧
      (na.toNat : Int) = a ∧ (nd.toNat : Int) = d ∧ (ns.toNat : Int) = su ∧ (nr.toNat : Int) = r) ∧
    ((a < 0 ∨ 15 < a) ∨ (d < 0 ∨ 15 < d) ∨ (su < 0 ∨ 15 < su) ∨ (r < 0 ∨ 15 < r) → asmAdsr c a d su r = none) ∧
    (0 ≤ v ∧ v < 2 ^ 16 → ∃ na nd ns nr, asmAdsrPacked c v = some (.adsr c na nd ns nr) ∧
      (na.toNat : Int) = v / 2 ^ 12 ∧ (nd.toNat : Int) = v / 2 ^ 8 % 16 ∧ (ns.toNat : Int) = v / 2 ^ 4 % 16 ∧
      (nr.toNat : Int) = v % 16) ∧
    (v < 0 ∨ 2 ^ 16 ≤ v → asmAdsrPacked c v = none)

/-- R80: READ by register name: each name of a channel register, with a channel, and OUT and FAULT, without one, give the
word of its select; every other name is refused, as is a bad channel. (That names are spelled in capitals only, so that a
line with another spelling is refused, is the model's choice: log 13.) -/
def Obligations.AssemblerReadsByName : Prop :=
  ∀ channel sel : List Char,
    (∀ e ∈ ([("PHASE", 0), ("FREQ", 1), ("PW", 2), ("LFSR", 3), ("LEVEL", 4), ("ENVST", 5), ("WAVE", 6), ("GATE", 7),
        ("ADSR", 8), ("ACTIVE", 9), ("WAVEOUT", 10)] : List (String × Nat)), ∀ c, parseChan channel = some c →
      ∃ i, assembleOperands .read [channel, e.1.toList] = some [i] ∧ i.WellFormed ∧ opNumber (encode i) = 0xB ∧
        Chan.ofBits (encode i).chan = c ∧ selNumber (encode i) = e.2) ∧
    (parseChan channel = none ∨
      (∀ name ∈ ["PHASE", "FREQ", "PW", "LFSR", "LEVEL", "ENVST", "WAVE", "GATE", "ADSR", "ACTIVE", "WAVEOUT"],
        sel ≠ name.toList) → assembleOperands .read [channel, sel] = none) ∧
    (sel = "OUT".toList → (assembleOperands .read [sel]).map (List.map encode) = some [0xB00000000B]) ∧
    (sel = "FAULT".toList → (assembleOperands .read [sel]).map (List.map encode) = some [0xB00000000C]) ∧
    (sel ≠ "OUT".toList → sel ≠ "FAULT".toList → assembleOperands .read [sel] = none)

/-- R81: the commands inside BIND and SILENCE give the same state in any order, and what that state is. -/
def Obligations.BindAndSilenceInAnyOrder : Prop :=
  ∀ (c : Chan) (a d su r : BitVec 4) (s : State) (l : List Instr),
    (l.Perm (bindWith c (.adsr c a d su r)) → ∃ t, execAll l s = .next t ∧
      OnlyChannelBecomes c { s.chan c with adsr := a ++ d ++ su ++ r, gate := 1, envst := .release } s t) ∧
    (l.Perm (silence c) → ∃ t, execAll l s = .next t ∧
      OnlyChannelBecomes c { s.chan c with gate := 0, envst := .release } s t)

/-! ## The step, the ports, reset -/

/-- R57, R78: a step takes the oldest word off the input and accepts it: it runs the command the word decodes to; with
its encoding on the input, a well-formed command runs. (That what the host sends waits in a list is the model's: log 2.) -/
def Obligations.StepRunsTheDecodedCommand : Prop :=
  ∀ (s : State) (rest : List HostInput) (i : Instr),
    (∀ w : Word, s.input = .command w :: rest → step s = acceptWord w { s with input := rest }) ∧
    (∀ w : Word, s.input = .command w :: rest → decode w = .ok i → step s = exec i { s with input := rest }) ∧
    (i.WellFormed → s.input = .command (encode i) :: rest → step s = exec i { s with input := rest })

/-- R21, R191, R214: every input, legal or not, has a next state, which has moved on by exactly that input; a fault
stops nothing. (That a step with no input left is a step at all, and that parameters and port histories outlive a reset,
is the model's: log 3, log 4.) -/
def Obligations.EveryStepAnswersANextState : Prop :=
  ∀ s : State, ∃ t, step s = .next t ∧ t.input = s.input.tail ∧ t.cfg = s.cfg ∧
    s.samples <+: t.samples ∧ s.reads <+: t.reads

/-- R210: the reset input sets every register of every channel and every global register to its reset value. -/
def Obligations.ResetInputSetsEveryRegister : Prop :=
  Config.default.lfsrSeed = 0x7FFFF8 ∧
  ∀ (s : State) (rest : List HostInput), s.input = .reset :: rest → ∃ t, step s = .next t ∧
    (∀ c, t.chan c = { phase := 0, freq := 0, pw := 0, lfsr := s.cfg.lfsrSeed, level := 0, envst := .release,
                       wave := 0x00, gate := 0, adsr := 0x0000, active := 1, waveout := 0x00 }) ∧
    t.out = 0 ∧ t.fault = 0 ∧ t.rdata = 0

/-- R20, R7: the machine right after reset, at the default parameters, which are lawful and whose tables are those of
92_eei_decisions.md D6. (That nothing has been sent, sampled or read is the model's: log 2, log 5.) -/
def Obligations.ResetStateAndDefaults : Prop :=
  (∀ c, State.reset.chan c =
    { phase := 0, freq := 0, pw := 0, lfsr := 0x7FFFF8, level := 0, envst := .release, wave := 0x00, gate := 0,
      adsr := 0x0000, active := 1, waveout := 0x00 }) ∧
  State.reset.out = 0 ∧ State.reset.fault = 0 ∧ State.reset.rdata = 0 ∧
  State.reset.cfg = Config.default ∧ Config.default.Lawful ∧
  Config.default.sampleRate = 44100 ∧ Config.default.mixShift = 16 ∧
  Config.default.noiseTaps = #v[2, 4, 7, 11, 13, 16, 20, 22] ∧
  (∀ n : Fin 16, (Config.default.attackTable.get n).toNat = Config.tableEntry 44100 (Config.attackTimesMs.get n)) ∧
  (∀ n : Fin 16, (Config.default.releaseTable.get n).toNat = Config.tableEntry 44100 (3 * Config.attackTimesMs.get n))

/-- R205: with nothing sent, the block does nothing and keeps all its state (the model's step then: log 3). -/
def Obligations.WaitingKeepsEveryRegister : Prop :=
  ∀ s : State, s.input = [] → ∃ t, step s = .next t ∧ RegistersSame s t ∧ PortsSame s t

/-- R175, R57: a run over two command lists joined is the run over the second from where the first ended: how the host
groups its commands does not matter. -/
def Obligations.RunsDoNotDependOnGrouping : Prop :=
  ∀ (s : State) (a b : List HostInput), s.input = [] →
    ∃ t, Host.Core.run Sys2Proof.core a.length (s.issue a) = .next t ∧ t.input = [] ∧
      Host.Core.run Sys2Proof.core (a ++ b).length (s.issue (a ++ b)) =
        Host.Core.run Sys2Proof.core b.length (t.issue b)

/-- R42: every step keeps the invariant, from every state that has it. -/
def Obligations.StepKeepsTheInvariant : Prop :=
  ∀ s t : State, s.Inv → step s = .next t → t.Inv

/-- R42, R210: the reset state has the invariant, at every lawful choice of the parameters. -/
def Obligations.ResetHasTheInvariant : Prop :=
  State.reset.Inv ∧ ∀ cfg : Config, cfg.Lawful → (State.resetWith cfg).Inv

/-- R191, R37: FAULT is sticky: no step but a reset changes it once it is nonzero, and a reset clears it. -/
def Obligations.FaultIsStickyUntilReset : Prop :=
  ∀ s t : State, step s = .next t →
    (s.input.head? ≠ some .reset → s.fault ≠ 0 → t.fault = s.fault) ∧
    (s.input.head? = some .reset → t.fault = 0)

/-- R195, R196, R130: among the commands that decode, only a PITCH out of range changes FAULT, from 0 to 4. -/
def Obligations.OnlyPitchFaultsAfterDecoding : Prop :=
  ∀ (i : Instr) (s t : State), i.WellFormed → exec i s = .next t → t.fault ≠ s.fault →
    s.fault = 0 ∧ t.fault = 4 ∧ ∃ c q, i = .pitch c q ∧ 2 ^ 28 ≤ pitchToFreq s.cfg q.toInt ∧ (t.chan c).freq = 0xFFFFFFF

/-- R20, R22, R54, R130: the only commands that write each register. -/
def Obligations.EachRegisterHasItsWriters : Prop :=
  ∀ (i : Instr) (s t : State), exec i s = .next t →
    (i ≠ .sample → t.out = s.out ∧ t.samples = s.samples ∧
      ∀ c, (t.chan c).phase = (s.chan c).phase ∧ (t.chan c).lfsr = (s.chan c).lfsr ∧
        (t.chan c).level = (s.chan c).level ∧ (t.chan c).waveout = (s.chan c).waveout) ∧
    (∀ c, (∀ q, i ≠ .pitch c q) → (∀ f, i ≠ .freq c f) → (t.chan c).freq = (s.chan c).freq) ∧
    (∀ c, (∀ v, i ≠ .pwset c v) → (∀ v, i ≠ .pwadd c v) → (t.chan c).pw = (s.chan c).pw) ∧
    (∀ c, i ≠ .sample → i ≠ .envrel c → (t.chan c).envst = (s.chan c).envst) ∧
    (∀ c, (∀ flags, i ≠ .wave c flags) → (t.chan c).wave = (s.chan c).wave) ∧
    (∀ c, (∀ b, i ≠ .gate c b) → (t.chan c).gate = (s.chan c).gate) ∧
    (∀ c, (∀ a d su r, i ≠ .adsr c a d su r) → (t.chan c).adsr = (s.chan c).adsr) ∧
    (∀ c, (∀ b, i ≠ .active c b) → (t.chan c).active = (s.chan c).active) ∧
    (isRead i = false → t.rdata = s.rdata ∧ t.reads = s.reads) ∧
    t.cfg = s.cfg ∧ t.input = s.input

/-- R54: every command but PWADD and SAMPLE gives the same registers when issued twice in a row as once. -/
def Obligations.IdempotentCommands : Prop :=
  ∀ (i : Instr) (s : State), i ≠ .sample → (∀ c v, i ≠ .pwadd c v) →
    ∃ t u, exec i s = .next t ∧ exec i t = .next u ∧ RegistersSame t u

/-! ## Host interface commands (44_host.md) -/

/-- R170: NOP does nothing; the all-zero word is its only encoding; a nonzero CH, Z or DATA faults. -/
def Obligations.NopChangesNothing : Prop :=
  (∀ s : State, exec .nop s = .next s) ∧
  (∀ w : Word, decode w = .ok .nop ↔ w = 0x0000000000) ∧
  (∀ w : Word, opNumber w = 0x0 → (chNumber w ≠ 0 ∨ zNumber w ≠ 0 ∨ dataNumber w ≠ 0) →
    decode w = .error .reservedField)

/-- R171: ACTIVE loads the mute bit and changes nothing else. -/
def Obligations.ActiveLoadsTheMuteBit : Prop :=
  ∀ (s : State) (c : Chan) (b : BitVec 1), ∃ t, exec (.active c b) s = .next t ∧
    OnlyChannelBecomes c { s.chan c with active := b } s t

/-- R172, R51: READ of each channel register puts it, zero-extended, into RDATA and changes nothing else. -/
def Obligations.ReadOfAChannelRegister : Prop :=
  ∀ (s : State) (c : Chan),
    (∃ t, exec (.readPhase c) s = .next t ∧ OnlyReadBecomes ((s.chan c).phase.setWidth 32) s t) ∧
    (∃ t, exec (.readFreq c) s = .next t ∧ OnlyReadBecomes ((s.chan c).freq.setWidth 32) s t) ∧
    (∃ t, exec (.readPw c) s = .next t ∧ OnlyReadBecomes ((s.chan c).pw.setWidth 32) s t) ∧
    (∃ t, exec (.readLfsr c) s = .next t ∧ OnlyReadBecomes ((s.chan c).lfsr.setWidth 32) s t) ∧
    (∃ t, exec (.readLevel c) s = .next t ∧ OnlyReadBecomes ((s.chan c).level.setWidth 32) s t) ∧
    (∃ t, exec (.readEnvst c) s = .next t ∧ OnlyReadBecomes
      (match (s.chan c).envst with | .release => 0 | .attack => 1 | .decay => 2 | .sustain => 3) s t) ∧
    (∃ t, exec (.readWave c) s = .next t ∧ OnlyReadBecomes (((s.chan c).wave &&& 0xF7).setWidth 32) s t) ∧
    (∃ t, exec (.readGate c) s = .next t ∧ OnlyReadBecomes ((s.chan c).gate.setWidth 32) s t) ∧
    (∃ t, exec (.readAdsr c) s = .next t ∧ OnlyReadBecomes ((s.chan c).adsr.setWidth 32) s t) ∧
    (∃ t, exec (.readActive c) s = .next t ∧ OnlyReadBecomes ((s.chan c).active.setWidth 32) s t) ∧
    (∃ t, exec (.readWaveout c) s = .next t ∧ OnlyReadBecomes ((s.chan c).waveout.setWidth 32) s t)

/-- R172, R51: READ of OUT and of FAULT; a READ of FAULT does not clear it. -/
def Obligations.ReadOfAGlobalRegister : Prop :=
  ∀ s : State,
    (∃ t, exec .readOut s = .next t ∧ OnlyReadBecomes (s.out.setWidth 32) s t) ∧
    (∃ t, exec .readFault s = .next t ∧ OnlyReadBecomes (s.fault.setWidth 32) s t)

/-! ## Pitch (40_pitch.md) -/

/-- R100: the converter is the floor of the exact real value, and the greatest natural number that meets the decidable
form of it. (The decidable form is the spec's own derivation, "[derived: from the definition of floor, ...]".) -/
def Obligations.PitchToFreqIsTheExactFloor : Prop :=
  ∀ (cfg : Config) (q : Int), cfg.Lawful →
    pitchToFreq cfg q = ⌊(440 * 2 ^ 28 * (2 : ℝ) ^ (((q : ℝ) - 232) / 48) / (cfg.sampleRate : ℝ) : ℝ)⌋₊ ∧
    (pitchToFreq cfg q * cfg.sampleRate) ^ 48 * 2 ^ (max 0 (-(q - 232))).toNat ≤
      (440 * 2 ^ 28) ^ 48 * 2 ^ (max 0 (q - 232)).toNat ∧
    ∀ n : Nat, (n * cfg.sampleRate) ^ 48 * 2 ^ (max 0 (-(q - 232))).toNat ≤
      (440 * 2 ^ 28) ^ 48 * 2 ^ (max 0 (q - 232)).toNat → n ≤ pitchToFreq cfg q

/-- R103: the reference pitch, the octave, monotonicity and the pitches that give 0. (The rule's (b) to (d) are the
spec's own derivations from R100.) -/
def Obligations.ConverterLaws : Prop :=
  ∀ cfg : Config, cfg.Lawful →
    pitchToFreq cfg 232 = 440 * 2 ^ 28 / cfg.sampleRate ∧
    (cfg.sampleRate = 44100 → pitchToFreq cfg 232 = 2678267) ∧
    (∀ q : Int, pitchToFreq cfg (q + 48) = 2 * pitchToFreq cfg q ∨ pitchToFreq cfg (q + 48) = 2 * pitchToFreq cfg q + 1) ∧
    (∀ q1 q2 : Int, q1 ≤ q2 → pitchToFreq cfg q1 ≤ pitchToFreq cfg q2) ∧
    (cfg.sampleRate = 44100 → (∀ q : Int, pitchToFreq cfg q = 0 ↔ q ≤ -793) ∧ pitchToFreq cfg (-792) = 1)

/-- R101: a pitch whose increment fits loads it and changes nothing else. -/
def Obligations.PitchLoadsTheIncrement : Prop :=
  ∀ (s : State) (c : Chan) (q : BitVec 16), pitchToFreq s.cfg q.toInt < 2 ^ 28 →
    ∃ t, exec (.pitch c q) s = .next t ∧ (t.chan c).freq.toNat = pitchToFreq s.cfg q.toInt ∧
      OnlyChannelBecomes c { s.chan c with freq := (t.chan c).freq } s t

/-- R195: a PITCH whose increment does not fit 28 bits saturates FREQ, records PITCH_RANGE if no fault is recorded yet,
and changes nothing else. -/
def Obligations.PitchOutOfRangeSaturates : Prop :=
  ∀ (s : State) (c : Chan) (q : BitVec 16), 2 ^ 28 ≤ pitchToFreq s.cfg q.toInt →
    ∃ t, exec (.pitch c q) s = .next t ∧ t.chan c = { s.chan c with freq := 2 ^ 28 - 1 } ∧
      (s.fault = 0 → t.fault = 4) ∧ (s.fault ≠ 0 → t.fault = s.fault) ∧
      OtherChannelsSame c s t ∧ t.out = s.out ∧ t.rdata = s.rdata ∧ PortsSame s t

/-- R102: which pitches are legal, at 44100 and in general. -/
def Obligations.LegalPitchRange : Prop :=
  ∀ cfg : Config, cfg.Lawful →
    (∀ q : Int, pitchToFreq cfg q < 2 ^ 28 ↔ (q : ℝ) < 232 + 48 * Real.logb 2 ((cfg.sampleRate : ℝ) / 440)) ∧
    (cfg.sampleRate = 44100 →
      (∀ q : Int, pitchToFreq cfg q < 2 ^ 28 ↔ q ≤ 551) ∧
      pitchToFreq cfg 551 = 268194054 ∧ pitchToFreq cfg 552 = 272095026)

/-- R104, R122, R123: FREQ and PWSET replace their register, PWADD adds modulo 2^28; each changes nothing else. -/
def Obligations.FrequencyAndPulseWidthLoads : Prop :=
  ∀ (s : State) (c : Chan) (v : BitVec 28),
    (∃ t, exec (.freq c v) s = .next t ∧ OnlyChannelBecomes c { s.chan c with freq := v } s t) ∧
    (∃ t, exec (.pwset c v) s = .next t ∧ OnlyChannelBecomes c { s.chan c with pw := v } s t) ∧
    (∃ t, exec (.pwadd c v) s = .next t ∧ (t.chan c).pw.toNat = ((s.chan c).pw.toNat + v.toNat) % 2 ^ 28 ∧
      OnlyChannelBecomes c { s.chan c with pw := (t.chan c).pw } s t)

/-! ## Waveform and envelope control (42_waveform_control.md, 41_envelope_control.md) -/

/-- R120, R33: WAVE loads the flags and changes nothing else; with bit 3 set it is an illegal command, which changes
nothing but FAULT. (That such a term, which no word decodes to, runs as that fault is the model's: log 7.) -/
def Obligations.WaveLoadsTheFlags : Prop :=
  ∀ (s : State) (c : Chan) (flags : BitVec 8),
    (flags.getLsbD 3 = false → ∃ t, exec (.wave c flags) s = .next t ∧
      OnlyChannelBecomes c { s.chan c with wave := flags } s t) ∧
    (flags.getLsbD 3 = true → ∃ t, exec (.wave c flags) s = .next t ∧ (∀ d, t.chan d = s.chan d) ∧
      (s.fault = 0 → t.fault = 2) ∧ (s.fault ≠ 0 → t.fault = s.fault) ∧
      t.out = s.out ∧ t.rdata = s.rdata ∧ PortsSame s t)

/-- R110, R112, R114, R30: ADSR loads the nibbles, GATE the gate, ENVREL forces RELEASE; each changes nothing else. -/
def Obligations.EnvelopeControlLoads : Prop :=
  ∀ (s : State) (c : Chan) (a d su r : BitVec 4) (b : BitVec 1),
    (∃ t, exec (.adsr c a d su r) s = .next t ∧
      (t.chan c).adsr.toNat = a.toNat * 2 ^ 12 + d.toNat * 2 ^ 8 + su.toNat * 2 ^ 4 + r.toNat ∧
      OnlyChannelBecomes c { s.chan c with adsr := (t.chan c).adsr } s t) ∧
    (∃ t, exec (.gate c b) s = .next t ∧ OnlyChannelBecomes c { s.chan c with gate := b } s t) ∧
    (∃ t, exec (.envrel c) s = .next t ∧ OnlyChannelBecomes c { s.chan c with envst := .release } s t)

/-- R113, R114, R218: setting a gate that is already on changes nothing, so it does not restart the envelope; ENVREL
and then a sample does, from the current level. -/
def Obligations.EnvrelRetriggersAnOpenGate : Prop :=
  ∀ (s : State) (c : Chan), GateIsOn (s.chan c) →
    (∃ t, exec (.gate c 1) s = .next t ∧ RegistersSame s t ∧ PortsSame s t) ∧
    (∃ t, execAll [.envrel c, .sample] s = .next t ∧
      ((s.chan c).level.toNat + attackOf s.cfg (s.chan c) < 0xFFFFFF → (t.chan c).envst = .attack ∧
        (t.chan c).level.toNat = (s.chan c).level.toNat + attackOf s.cfg (s.chan c)) ∧
      (0xFFFFFF ≤ (s.chan c).level.toNat + attackOf s.cfg (s.chan c) → (t.chan c).envst = .decay ∧
        (t.chan c).level.toNat = 0xFFFFFF))

/-- R111, which the spec derives from R110 and R132: a new ADSR acts on a running envelope at the next sample: its attack
increment in ATTACK, its decay decrement and sustain level in DECAY, its sustain level in SUSTAIN (ATTACK again where
LEVEL differs), its release decrement in RELEASE. -/
def Obligations.NewAdsrActsAtTheNextSample : Prop :=
  ∀ (s : State) (c : Chan) (a d su r : BitVec 4), ∃ t, execAll [.adsr c a d su r, .sample] s = .next t ∧
    (¬GateIsOn (s.chan c) → (t.chan c).envst = .release ∧
      (t.chan c).level.toNat = (s.chan c).level.toNat - (s.cfg.releaseTable.get r.toFin).toNat) ∧
    (GateIsOn (s.chan c) → (s.chan c).envst = .attack →
      (t.chan c).level.toNat = min 0xFFFFFF ((s.chan c).level.toNat + (s.cfg.attackTable.get a.toFin).toNat)) ∧
    (GateIsOn (s.chan c) → (s.chan c).envst = .decay →
      (t.chan c).level.toNat =
        max (su.toNat * 0x111111) ((s.chan c).level.toNat - (s.cfg.releaseTable.get d.toFin).toNat) ∧
      ((s.chan c).level.toNat ≤ su.toNat * 0x111111 → (t.chan c).envst = .sustain)) ∧
    (GateIsOn (s.chan c) → (s.chan c).envst = .sustain → (t.chan c).level = (s.chan c).level ∧
      (su.toNat * 0x111111 ≠ (s.chan c).level.toNat → (t.chan c).envst = .attack) ∧
      (su.toNat * 0x111111 = (s.chan c).level.toNat → (t.chan c).envst = .sustain))

/-- R218: a gate turned off for one sample and then on again restarts the attack, from the level the release step left. -/
def Obligations.GateOffForOneSampleRetriggers : Prop :=
  ∀ (s : State) (c : Chan), (s.chan c).wave.getLsbD 0 = true →
    ∃ t, execAll [.gate c 0, .sample, .gate c 1, .sample] s = .next t ∧
      (t.chan c).level.toNat =
        min 0xFFFFFF ((s.chan c).level.toNat - releaseOf s.cfg (s.chan c) + attackOf s.cfg (s.chan c)) ∧
      (t.chan c).envst = if (t.chan c).level = 0xFFFFFF then .decay else .attack

/-- R113, R121: the gate acts through the next sample. Closed by GATE or by WAVE bit 0, it forces RELEASE from any state;
opened by either, it starts ATTACK from RELEASE, and from ATTACK, DECAY and SUSTAIN the envelope goes on where it
stands; GATE 1 where GATE is 1 leaves the whole next sample as it is without it. -/
def Obligations.TheGateActsAtTheNextSample : Prop :=
  ∀ (s : State) (c : Chan) (flags : BitVec 8), flags.getLsbD 3 = false →
    (∃ t, execAll [.gate c 0, .sample] s = .next t ∧ (t.chan c).envst = .release ∧
      (t.chan c).level.toNat = (s.chan c).level.toNat - releaseOf s.cfg (s.chan c)) ∧
    (∃ t, execAll [.wave c flags, .sample] s = .next t ∧
      (flags.getLsbD 0 = false → (t.chan c).envst = .release ∧
        (t.chan c).level.toNat = (s.chan c).level.toNat - releaseOf s.cfg (s.chan c)) ∧
      (flags.getLsbD 0 = true → (s.chan c).gate = 1 → OpenGateSample s.cfg (s.chan c) (t.chan c))) ∧
    (∃ t, execAll [.gate c 1, .sample] s = .next t ∧
      ((s.chan c).wave.getLsbD 0 = true → OpenGateSample s.cfg (s.chan c) (t.chan c)) ∧
      ((s.chan c).gate = 1 → exec .sample s = .next t))

/-! ## The sample step (43_sample.md) -/

/-- R130, R54: SAMPLE completes, drives exactly one sample, and leaves alone every register the rule does not name. (That
the port is the list of what it showed is the model's: log 5.) -/
def Obligations.SampleFrame : Prop :=
  ∀ s : State, ∃ t, exec .sample s = .next t ∧ t.samples = s.samples ++ [t.out] ∧
    t.fault = s.fault ∧ t.rdata = s.rdata ∧ t.reads = s.reads ∧ t.cfg = s.cfg ∧ t.input = s.input ∧
    ∀ c, (t.chan c).freq = (s.chan c).freq ∧ (t.chan c).pw = (s.chan c).pw ∧ (t.chan c).wave = (s.chan c).wave ∧
      (t.chan c).gate = (s.chan c).gate ∧ (t.chan c).adsr = (s.chan c).adsr ∧ (t.chan c).active = (s.chan c).active

/-- R132: LEVEL and ENVST of every channel after a sample, from the registers before it. -/
def Obligations.SampleStepsEveryEnvelope : Prop :=
  ∀ s : State, ∃ t, exec .sample s = .next t ∧ ∀ c,
    (¬GateIsOn (s.chan c) → (t.chan c).envst = .release ∧
      (t.chan c).level.toNat = (s.chan c).level.toNat - releaseOf s.cfg (s.chan c)) ∧
    (GateIsOn (s.chan c) → ((s.chan c).envst = .release ∨ (s.chan c).envst = .attack) →
      ((s.chan c).level.toNat + attackOf s.cfg (s.chan c) < 0xFFFFFF → (t.chan c).envst = .attack ∧
        (t.chan c).level.toNat = (s.chan c).level.toNat + attackOf s.cfg (s.chan c)) ∧
      (0xFFFFFF ≤ (s.chan c).level.toNat + attackOf s.cfg (s.chan c) → (t.chan c).envst = .decay ∧
        (t.chan c).level.toNat = 0xFFFFFF)) ∧
    (GateIsOn (s.chan c) → (s.chan c).envst = .decay →
      (((s.chan c).level.toNat : Int) - decayOf s.cfg (s.chan c) ≤ sustainOf (s.chan c) →
        (t.chan c).envst = .sustain ∧ (t.chan c).level.toNat = sustainOf (s.chan c)) ∧
      (sustainOf (s.chan c) < ((s.chan c).level.toNat : Int) - decayOf s.cfg (s.chan c) →
        (t.chan c).envst = .decay ∧
        ((t.chan c).level.toNat : Int) = (s.chan c).level.toNat - decayOf s.cfg (s.chan c))) ∧
    (GateIsOn (s.chan c) → (s.chan c).envst = .sustain → (t.chan c).level = (s.chan c).level ∧
      ((s.chan c).level.toNat ≠ sustainOf (s.chan c) → (t.chan c).envst = .attack) ∧
      ((s.chan c).level.toNat = sustainOf (s.chan c) → (t.chan c).envst = .sustain))

/-- R134, R135, with the predecessor R131 names: PHASE of every channel after a sample. -/
def Obligations.SampleStepsEveryPhase : Prop :=
  ∀ s : State, ∃ t, exec .sample s = .next t ∧ ∀ c,
    (SyncedBy (seenPred s t c) (s.chan c) → (t.chan c).phase.toNat =
      (seenPred s t c).phase.toNat * (s.chan c).freq.toNat / (seenPred s t c).freq.toNat) ∧
    (¬SyncedBy (seenPred s t c) (s.chan c) → (t.chan c).phase.toNat =
      ((s.chan c).phase.toNat + (s.chan c).freq.toNat) % 2 ^ 28)

/-- R136: a predecessor with FREQ 0 syncs nothing; a synced phase is below the channel's own FREQ; a sync chain reaches
the successor in the same sample, but not from channel 3 to channel 0; the test is exact where no sync happened. -/
def Obligations.HardSyncCornerCases : Prop :=
  ∀ s : State, ∃ t, exec .sample s = .next t ∧ ∀ c,
    ((seenPred s t c).freq = 0 → (t.chan c).phase.toNat = ((s.chan c).phase.toNat + (s.chan c).freq.toNat) % 2 ^ 28) ∧
    (SyncedBy (seenPred s t c) (s.chan c) → 0 < (s.chan c).freq.toNat →
      (t.chan c).phase.toNat < (s.chan c).freq.toNat) ∧
    (SyncedBy (seenPred s t c) (s.chan c) → (s.chan c).freq = 0 → (t.chan c).phase = 0) ∧
    (∀ d, pred d = c → d ≠ .c0 → SyncedBy (seenPred s t c) (s.chan c) → 0 < (s.chan c).freq.toNat →
      (s.chan d).wave.getLsbD 1 = true → (t.chan d).phase.toNat =
        (t.chan c).phase.toNat * (s.chan d).freq.toNat / (s.chan c).freq.toNat) ∧
    (¬SyncedBy (seenPred s t c) (s.chan c) →
      ((t.chan c).phase.toNat < (s.chan c).freq.toNat ↔ 2 ^ 28 ≤ (s.chan c).phase.toNat + (s.chan c).freq.toNat))

/-- R137: LFSR of every channel after a sample: clocked at most once, exactly when PHASE[27:23] changed over the whole
sample, whatever NOISE and ACTIVE are. -/
def Obligations.SampleClocksEveryNoiseRegister : Prop :=
  ∀ s : State, ∃ t, exec .sample s = .next t ∧ ∀ c,
    ((t.chan c).phase.toNat / 2 ^ 23 ≠ (s.chan c).phase.toNat / 2 ^ 23 → (t.chan c).lfsr.toNat =
      (2 * (s.chan c).lfsr.toNat + ((s.chan c).lfsr.getLsbD 22 ^^ (s.chan c).lfsr.getLsbD 17).toNat) % 2 ^ 23) ∧
    ((t.chan c).phase.toNat / 2 ^ 23 = (s.chan c).phase.toNat / 2 ^ 23 → (t.chan c).lfsr = (s.chan c).lfsr)

/-- R139, R140, R141, R142 (and R138's taps): every bit of every channel's WAVEOUT after a sample, from this sample's
PHASE and LFSR: the AND of the enabled bytes, 1 where none is enabled. -/
def Obligations.SampleCombinesTheWaveforms : Prop :=
  ∀ s : State, ∃ t, exec .sample s = .next t ∧ ∀ (c : Chan) (i : Fin 8),
    (t.chan c).waveout.getLsbD i.val =
      ((!(s.chan c).wave.getLsbD 4 || triangleBit (seenPred s t c) (t.chan c) i.val) &&
       (!(s.chan c).wave.getLsbD 5 || ((t.chan c).phase.toNat / 2 ^ 20).testBit i.val) &&
       (!(s.chan c).wave.getLsbD 6 || decide ((s.chan c).pw.toNat < (t.chan c).phase.toNat)) &&
       (!(s.chan c).wave.getLsbD 7 || (t.chan c).lfsr.getLsbD (s.cfg.noiseTaps.get i).val))

/-- R143(c), (d), (e): with TRI alone the byte is the triangle, with SAW alone the sawtooth, at every phase a sample ends
at; PULSE with TRI gives 0x00 at phase 0 and the pulse byte at phase 2^27. WAVE[7:4] is 1, 2 and 5 in the three cases. -/
def Obligations.WaveformShapes : Prop :=
  ∀ s : State, ∃ t, exec .sample s = .next t ∧ ∀ c,
    ((s.chan c).wave.toNat / 16 = 1 → (s.chan c).wave.getLsbD 2 = false →
      ((t.chan c).phase.toNat < 2 ^ 27 → (t.chan c).waveout.toNat = (t.chan c).phase.toNat / 2 ^ 19) ∧
      (2 ^ 27 ≤ (t.chan c).phase.toNat → (t.chan c).waveout.toNat = 255 - ((t.chan c).phase.toNat - 2 ^ 27) / 2 ^ 19) ∧
      ((t.chan c).phase = 0 → (t.chan c).waveout = 0) ∧
      (2 ^ 27 - 2 ^ 19 ≤ (t.chan c).phase.toNat → (t.chan c).phase.toNat < 2 ^ 27 + 2 ^ 19 →
        (t.chan c).waveout = 0xFF) ∧
      (2 ^ 28 - 2 ^ 19 ≤ (t.chan c).phase.toNat → (t.chan c).waveout = 0)) ∧
    ((s.chan c).wave.toNat / 16 = 2 →
      (t.chan c).waveout.toNat = (t.chan c).phase.toNat / 2 ^ 20 ∧
      ((t.chan c).phase = 0 → (t.chan c).waveout = 0) ∧
      (2 ^ 28 - 2 ^ 20 ≤ (t.chan c).phase.toNat → (t.chan c).waveout = 0xFF)) ∧
    ((s.chan c).wave.toNat / 16 = 5 →
      ((t.chan c).phase = 0 → (t.chan c).waveout = 0) ∧
      ((t.chan c).phase.toNat = 2 ^ 27 → (s.chan c).wave.getLsbD 2 = false →
        (t.chan c).waveout = if (s.chan c).pw.toNat < 2 ^ 27 then 0xFF else 0x00))

/-- R144, R145: OUT is the clamped sum of the four contributions, each from this sample's byte and level, and 0 for a
muted channel; each product is in the range the rule gives. -/
def Obligations.SampleMixesAndClamps : Prop :=
  ∀ s : State, ∃ t, exec .sample s = .next t ∧
    t.out.toInt = max (-32768) (min 32767 (contributionOf s.cfg (t.chan .c0) + contributionOf s.cfg (t.chan .c1) +
      contributionOf s.cfg (t.chan .c2) + contributionOf s.cfg (t.chan .c3))) ∧
    ∀ c, -2147483520 ≤ (((t.chan c).waveout.toNat : Int) - 128) * (t.chan c).level.toNat ∧
      (((t.chan c).waveout.toNat : Int) - 128) * (t.chan c).level.toNat ≤ 2130706305

/-- R133(b): an attack from level L0 below the maximum clamps at sample ceil((0xFFFFFF − L0) / increment), rising by the
increment until then. -/
def Obligations.AttackReachesTheTopOnTime : Prop :=
  ∀ (s : State) (c : Chan) (n : Nat), s.cfg.Lawful → GateIsOn (s.chan c) →
    ((s.chan c).envst = .release ∨ (s.chan c).envst = .attack) → (s.chan c).level.toNat < 0xFFFFFF →
    n = (0xFFFFFF - (s.chan c).level.toNat + attackOf s.cfg (s.chan c) - 1) / attackOf s.cfg (s.chan c) →
    (∀ k, 1 ≤ k → k < n → ∃ t, execAll (render k) s = .next t ∧ (t.chan c).envst = .attack ∧
      (t.chan c).level.toNat = (s.chan c).level.toNat + k * attackOf s.cfg (s.chan c)) ∧
    (∃ t, execAll (render n) s = .next t ∧ (t.chan c).envst = .decay ∧ (t.chan c).level.toNat = 0xFFFFFF)

/-- R133(c): with the gate off, LEVEL falls by the release decrement at every sample until it is 0 and stays 0; it is 0
from sample ceil(L0 / decrement) on. -/
def Obligations.ReleaseFallsToZeroAndStays : Prop :=
  ∀ (s : State) (c : Chan) (k : Nat), s.cfg.Lawful → ¬GateIsOn (s.chan c) → 1 ≤ k →
    ∃ t, execAll (render k) s = .next t ∧ (t.chan c).envst = .release ∧
      (t.chan c).level.toNat = (s.chan c).level.toNat - k * releaseOf s.cfg (s.chan c) ∧
      ((t.chan c).level = 0 ↔
        ((s.chan c).level.toNat + releaseOf s.cfg (s.chan c) - 1) / releaseOf s.cfg (s.chan c) ≤ k)

/-- R133(d): an open gate in SUSTAIN at the sustain level stays there, for any number of samples. -/
def Obligations.SustainHolds : Prop :=
  ∀ (s : State) (c : Chan) (k : Nat), GateIsOn (s.chan c) → (s.chan c).envst = .sustain →
    (s.chan c).level.toNat = sustainOf (s.chan c) →
    ∃ t, execAll (render k) s = .next t ∧ (t.chan c).envst = .sustain ∧ (t.chan c).level = (s.chan c).level

/-- R133(e), (f), (g): DECAY never ends below the sustain level; with S = 15 DECAY becomes SUSTAIN at once at the
maximum; ENVST is RELEASE after a sample exactly when the gate test failed. -/
def Obligations.EnvelopeLaws : Prop :=
  ∀ s : State, ∃ t, exec .sample s = .next t ∧ ∀ c,
    (GateIsOn (s.chan c) → (s.chan c).envst = .decay → sustainOf (s.chan c) ≤ (t.chan c).level.toNat) ∧
    (GateIsOn (s.chan c) → (s.chan c).envst = .decay → (s.chan c).adsr.toNat / 2 ^ 4 % 16 = 15 →
      (t.chan c).envst = .sustain ∧ (t.chan c).level = 0xFFFFFF) ∧
    ((t.chan c).envst = .release ↔ ¬GateIsOn (s.chan c))

/-- R143(a): the noise register's step is a bijection that maps 0 and only 0 to 0, and how the old bits are found in the
new value. -/
def Obligations.NoiseStepIsABijection : Prop :=
  Function.Bijective lfsrNext ∧ (∀ v, lfsrNext v = 0 ↔ v = 0) ∧
  ∀ v : BitVec 23, (∀ i, i ≤ 21 → v.getLsbD i = (lfsrNext v).getLsbD (i + 1)) ∧
    v.getLsbD 22 = ((lfsrNext v).getLsbD 0 ^^ (lfsrNext v).getLsbD 18)

/-- R143(b): from the seed, and from every nonzero value, the noise register first returns after exactly 2^23 − 1
clocks, and every nonzero value is reached from every other. -/
def Obligations.NoisePeriodIsMaximal : Prop :=
  Function.minimalPeriod lfsrNext 0x7FFFF8 = 8388607 ∧
  (∀ v : BitVec 23, v ≠ 0 → Function.minimalPeriod lfsrNext v = 8388607) ∧
  ∀ u v : BitVec 23, u ≠ 0 → v ≠ 0 → ∃ k, k < 8388607 ∧ lfsrNext^[k] u = v

/-- R219, R211: at FREQ 0 a channel that no sync touches keeps its PHASE and its LFSR, so its noise byte is constant;
and the byte, with no other waveform enabled, changes only when the top five bits of PHASE do. -/
def Obligations.NoiseFreezesWithThePhase : Prop :=
  ∀ s : State, ∃ t, exec .sample s = .next t ∧ ∀ c,
    ((s.chan c).freq = 0 → (s.chan c).wave.getLsbD 1 = false →
      (t.chan c).phase = (s.chan c).phase ∧ (t.chan c).lfsr = (s.chan c).lfsr) ∧
    (∃ u, exec .sample t = .next u ∧ ((s.chan c).wave.getLsbD 4 = false → (s.chan c).wave.getLsbD 5 = false →
      (s.chan c).wave.getLsbD 6 = false → (u.chan c).phase.toNat / 2 ^ 23 = (t.chan c).phase.toNat / 2 ^ 23 →
      (u.chan c).waveout = (t.chan c).waveout))

/-- R146(c), (d), R171: muting or unmuting a channel before a sample changes no register after it but that mute bit and
OUT; OUT is then the clamped sum of the other three contributions, the same as without it, and of the channel's own,
which is 0 where it is muted. -/
def Obligations.MuteIsolation : Prop :=
  ∀ (s : State) (c : Chan) (b : BitVec 1), ∃ s' t t', exec (.active c b) s = .next s' ∧
    exec .sample s = .next t ∧ exec .sample s' = .next t' ∧
    (∀ d, d ≠ c → t'.chan d = t.chan d ∧ contributionOf s.cfg (t'.chan d) = contributionOf s.cfg (t.chan d)) ∧
    t'.chan c = { t.chan c with active := b } ∧
    (b = 0 → contributionOf s.cfg (t'.chan c) = 0 ∧
      t'.out.toInt = max (-32768) (min 32767 (otherContributions s.cfg t c))) ∧
    t'.out.toInt =
      max (-32768) (min 32767 (otherContributions s.cfg t c + contributionOf s.cfg { t.chan c with active := b })) ∧
    t'.fault = t.fault ∧ t'.rdata = t.rdata ∧ t'.reads = t.reads ∧ t'.input = t.input ∧ t'.cfg = t.cfg

/-- R146(a), (b): at MIX_SHIFT = 16 one channel alone never clamps; a level of 0 or a byte of 0x80 contributes 0; a byte
of 0x7F contributes −1 at every level from 1 to 2^MIX_SHIFT. -/
def Obligations.MixerLaws : Prop :=
  ∀ (cfg : Config) (r : ChannelRegs),
    (cfg.mixShift = 16 → -32768 ≤ contributionOf cfg r ∧ contributionOf cfg r ≤ 32511) ∧
    (r.level = 0 ∨ r.waveout = 0x80 → contributionOf cfg r = 0) ∧
    (r.active = 1 → r.waveout = 0x7F → 1 ≤ r.level.toNat → r.level.toNat ≤ 2 ^ cfg.mixShift →
      contributionOf cfg r = -1) ∧
    (∀ (s : State) (c : Chan), s.cfg.mixShift = 16 → (∀ d, d ≠ c → (s.chan d).active = 0) →
      ∃ t, exec .sample s = .next t ∧ t.out.toInt = contributionOf s.cfg (t.chan c))

/-- R211: the reset state is silent, and a silent state stays silent, with OUT = 0 at every sample, under every command
after which no gate is on. -/
def Obligations.SilenceLastsUntilAGateOpens : Prop :=
  State.reset.Silent ∧
  ∀ (i : Instr) (s t : State), s.Silent → exec i s = .next t → (∀ c, ¬GateIsOn (t.chan c)) →
    t.Silent ∧ (i = .sample → t.out = 0)

/-- R203, R131: a channel's registers after a sample depend on its own registers and, only where its SYNC or RING flag
is set, on the PHASE and FREQ of the predecessor it sees: never on anything else of the other channels. -/
def Obligations.ChannelsCoupleOnlyThroughThePredecessor : Prop :=
  ∀ (s s' t t' : State) (c : Chan), s.cfg = s'.cfg → s.chan c = s'.chan c →
    exec .sample s = .next t → exec .sample s' = .next t' →
    ((s.chan c).wave.getLsbD 1 = true ∨ (s.chan c).wave.getLsbD 2 = true →
      (seenPred s t c).phase = (seenPred s' t' c).phase ∧ (seenPred s t c).freq = (seenPred s' t' c).freq) →
    t.chan c = t'.chan c
end

