-- ==== Sys2Proof/Laws/Decode.lean ====
section
/-! SUPPORT. The fields of a command word: taking a field out of a word made of fields, and the numbers of Safety.lean as
fields. -/
namespace Sys2Proof.Machine

/-! ### A word made of fields (30_encoding.md R70) -/

theorem op_ofFields (op : BitVec 4) (c z : BitVec 2) (d : BitVec 32) : (Word.ofFields op c z d).op = op := by
  ext i hi
  simp only [Word.ofFields, Word.op, BitVec.getElem_extractLsb', BitVec.getLsbD_append]
  rw [if_neg (by omega), if_neg (by omega), if_neg (by omega), ← BitVec.getLsbD_eq_getElem]
  congr 1; omega

theorem chan_ofFields (op : BitVec 4) (c z : BitVec 2) (d : BitVec 32) : (Word.ofFields op c z d).chan = c := by
  ext i hi
  simp only [Word.ofFields, Word.chan, BitVec.getElem_extractLsb', BitVec.getLsbD_append]
  rw [if_neg (by omega), if_neg (by omega), if_pos (by omega), ← BitVec.getLsbD_eq_getElem]
  congr 1; omega

theorem zero_ofFields (op : BitVec 4) (c z : BitVec 2) (d : BitVec 32) : (Word.ofFields op c z d).zero = z := by
  ext i hi
  simp only [Word.ofFields, Word.zero, BitVec.getElem_extractLsb', BitVec.getLsbD_append]
  rw [if_neg (by omega), if_pos (by omega), ← BitVec.getLsbD_eq_getElem]
  congr 1; omega

theorem data_ofFields (op : BitVec 4) (c z : BitVec 2) (d : BitVec 32) : (Word.ofFields op c z d).data = d := by
  ext i hi
  simp only [Word.ofFields, Word.data, BitVec.getElem_extractLsb', BitVec.getLsbD_append]
  rw [if_pos (by omega), ← BitVec.getLsbD_eq_getElem]
  congr 1; omega

/-- A word is its four fields. -/
theorem ofFields_fields (w : Word) : Word.ofFields w.op w.chan w.zero w.data = w := by
  ext i hi
  simp only [Word.ofFields, Word.data, Word.op, Word.chan, Word.zero, ← BitVec.getLsbD_eq_getElem,
    BitVec.getLsbD_append, BitVec.getLsbD_extractLsb']
  by_cases h1 : i < 32
  · simp [h1]
  · by_cases h2 : i < 34
    · simp [h1, show i - 32 < 2 by omega, show 32 + (i - 32) = i by omega]
    · by_cases h3 : i < 36
      · simp [h1, show ¬ (i - 32 < 2) by omega, show i - 32 - 2 < 2 by omega, show 34 + (i - 32 - 2) = i by omega]
      · simp [h1, show ¬ (i - 32 < 2) by omega, show ¬ (i - 32 - 2 < 2) by omega,
          show i - 32 - 2 - 2 < 4 by omega, show 36 + (i - 32 - 2 - 2) = i by omega]

/-! ### The fields as numbers -/

theorem opNumber_eq (w : Word) : opNumber w = w.op.toNat := by
  simp only [opNumber, Word.op, BitVec.extractLsb'_toNat, Nat.shiftRight_eq_div_pow]
  have := w.isLt
  omega

theorem chNumber_eq (w : Word) : chNumber w = w.chan.toNat := by
  simp only [chNumber, Word.chan, BitVec.extractLsb'_toNat, Nat.shiftRight_eq_div_pow]

theorem zNumber_eq (w : Word) : zNumber w = w.zero.toNat := by
  simp only [zNumber, Word.zero, BitVec.extractLsb'_toNat, Nat.shiftRight_eq_div_pow]

theorem dataNumber_eq (w : Word) : dataNumber w = w.data.toNat := by
  simp only [dataNumber, Word.data, BitVec.extractLsb'_toNat, Nat.shiftRight_zero]

theorem selNumber_eq (w : Word) : selNumber w = (w.data.extractLsb' 0 4).toNat := by
  simp only [selNumber, Word.data, BitVec.extractLsb'_toNat, Nat.shiftRight_zero]
  omega

/-! ### Channels as fields -/

@[simp] theorem ofBits_bits (c : Chan) : Chan.ofBits c.bits = c := by
  cases c <;> rfl

@[simp] theorem bits_ofBits (b : BitVec 2) : (Chan.ofBits b).bits = b := by
  revert b; decide

end Sys2Proof.Machine
end

