-- ==== Sys2Proof/Laws/State.lean ====
section
/-! SUPPORT. One lemma for each field of State under each named update, all true by unfolding, so that no later
proof unfolds a record update. -/
namespace Sys2Proof.Machine

/-! ### Banks -/

@[simp] theorem Bank.get_set_same (b : Bank) (c : Chan) (r : ChannelRegs) : (b.set c r).get c = r := by
  cases c <;> rfl

theorem Bank.get_set_ne (b : Bank) (r : ChannelRegs) : ∀ c d : Chan, d ≠ c → (b.set c r).get d = b.get d := by
  intro c d h
  cases c <;> cases d <;> first | rfl | exact absurd rfl h

theorem Bank.ext_get {a b : Bank} (h : ∀ c, a.get c = b.get c) : a = b := by
  cases a
  cases b
  have h0 := h .c0
  have h1 := h .c1
  have h2 := h .c2
  have h3 := h .c3
  simp only [Bank.get] at h0 h1 h2 h3
  rw [h0, h1, h2, h3]

@[simp] theorem Bank.set_get (b : Bank) (c : Chan) : b.set c (b.get c) = b := by
  cases c <;> rfl

@[simp] theorem Bank.set_set (b : Bank) (c : Chan) (r q : ChannelRegs) : (b.set c r).set c q = b.set c q := by
  cases c <;> rfl

/-! ### setChan -/

@[simp] theorem State.chan_setChan_same (s : State) (c : Chan) (r : ChannelRegs) : (s.setChan c r).chan c = r :=
  Bank.get_set_same s.ch c r

theorem State.chan_setChan_ne (s : State) {c d : Chan} (r : ChannelRegs) (h : d ≠ c) :
    (s.setChan c r).chan d = s.chan d := Bank.get_set_ne s.ch r c d h

/-- The general read after a write, for a case split on the channel. -/
theorem State.chan_setChan (s : State) (c d : Chan) (r : ChannelRegs) :
    (s.setChan c r).chan d = if d = c then r else s.chan d := by
  split
  · next h => rw [h, State.chan_setChan_same]
  · next h => exact State.chan_setChan_ne s r h

@[simp] theorem State.setChan_chan (s : State) (c : Chan) : s.setChan c (s.chan c) = s := by
  simp [State.setChan, State.chan]
@[simp] theorem State.setChan_setChan (s : State) (c : Chan) (r q : ChannelRegs) :
    (s.setChan c r).setChan c q = s.setChan c q := by simp [State.setChan]
@[simp] theorem State.setChan_cfg (s : State) (c : Chan) (r : ChannelRegs) : (s.setChan c r).cfg = s.cfg := rfl
@[simp] theorem State.setChan_out (s : State) (c : Chan) (r : ChannelRegs) : (s.setChan c r).out = s.out := rfl
@[simp] theorem State.setChan_fault (s : State) (c : Chan) (r : ChannelRegs) : (s.setChan c r).fault = s.fault := rfl
@[simp] theorem State.setChan_rdata (s : State) (c : Chan) (r : ChannelRegs) : (s.setChan c r).rdata = s.rdata := rfl
@[simp] theorem State.setChan_input (s : State) (c : Chan) (r : ChannelRegs) : (s.setChan c r).input = s.input := rfl
@[simp] theorem State.setChan_samples (s : State) (c : Chan) (r : ChannelRegs) :
    (s.setChan c r).samples = s.samples := rfl
@[simp] theorem State.setChan_reads (s : State) (c : Chan) (r : ChannelRegs) : (s.setChan c r).reads = s.reads := rfl

/-! ### raiseFault -/

@[simp] theorem raiseFault_ch (k : FaultCode) (s : State) : (raiseFault k s).ch = s.ch := by
  unfold raiseFault; split <;> rfl
@[simp] theorem raiseFault_chan (k : FaultCode) (s : State) (c : Chan) : (raiseFault k s).chan c = s.chan c := by
  simp [State.chan]
@[simp] theorem raiseFault_cfg (k : FaultCode) (s : State) : (raiseFault k s).cfg = s.cfg := by
  unfold raiseFault; split <;> rfl
@[simp] theorem raiseFault_out (k : FaultCode) (s : State) : (raiseFault k s).out = s.out := by
  unfold raiseFault; split <;> rfl
@[simp] theorem raiseFault_rdata (k : FaultCode) (s : State) : (raiseFault k s).rdata = s.rdata := by
  unfold raiseFault; split <;> rfl
@[simp] theorem raiseFault_input (k : FaultCode) (s : State) : (raiseFault k s).input = s.input := by
  unfold raiseFault; split <;> rfl
@[simp] theorem raiseFault_samples (k : FaultCode) (s : State) : (raiseFault k s).samples = s.samples := by
  unfold raiseFault; split <;> rfl
@[simp] theorem raiseFault_reads (k : FaultCode) (s : State) : (raiseFault k s).reads = s.reads := by
  unfold raiseFault; split <;> rfl

/-- All that raising a fault does: FAULT takes the code when it held none, and keeps its own otherwise. -/
theorem raiseFault_fault (k : FaultCode) (s : State) :
    (raiseFault k s).fault = if s.fault = 0 then faultNumber k else s.fault := by
  unfold raiseFault; split <;> simp_all

/-! ### Ports -/

@[simp] theorem dropInput_input (s : State) : (dropInput s).input = s.input.tail := rfl
@[simp] theorem dropInput_chan (s : State) (c : Chan) : (dropInput s).chan c = s.chan c := rfl
@[simp] theorem dropInput_cfg (s : State) : (dropInput s).cfg = s.cfg := rfl
@[simp] theorem dropInput_out (s : State) : (dropInput s).out = s.out := rfl
@[simp] theorem dropInput_fault (s : State) : (dropInput s).fault = s.fault := rfl
@[simp] theorem dropInput_rdata (s : State) : (dropInput s).rdata = s.rdata := rfl
@[simp] theorem dropInput_samples (s : State) : (dropInput s).samples = s.samples := rfl
@[simp] theorem dropInput_reads (s : State) : (dropInput s).reads = s.reads := rfl

@[simp] theorem issue_input (s : State) (l : List HostInput) : (s.issue l).input = s.input ++ l := rfl
@[simp] theorem issue_chan (s : State) (l : List HostInput) (c : Chan) : (s.issue l).chan c = s.chan c := rfl
@[simp] theorem issue_cfg (s : State) (l : List HostInput) : (s.issue l).cfg = s.cfg := rfl
@[simp] theorem issue_fault (s : State) (l : List HostInput) : (s.issue l).fault = s.fault := rfl

@[simp] theorem driveSample_out (v : BitVec 16) (s : State) : (driveSample v s).out = v := rfl
@[simp] theorem driveSample_samples (v : BitVec 16) (s : State) : (driveSample v s).samples = s.samples ++ [v] := rfl
@[simp] theorem driveSample_chan (v : BitVec 16) (s : State) (c : Chan) : (driveSample v s).chan c = s.chan c := rfl
@[simp] theorem driveSample_cfg (v : BitVec 16) (s : State) : (driveSample v s).cfg = s.cfg := rfl
@[simp] theorem driveSample_fault (v : BitVec 16) (s : State) : (driveSample v s).fault = s.fault := rfl
@[simp] theorem driveSample_rdata (v : BitVec 16) (s : State) : (driveSample v s).rdata = s.rdata := rfl
@[simp] theorem driveSample_input (v : BitVec 16) (s : State) : (driveSample v s).input = s.input := rfl
@[simp] theorem driveSample_reads (v : BitVec 16) (s : State) : (driveSample v s).reads = s.reads := rfl

@[simp] theorem presentRead_rdata (v : BitVec 32) (s : State) : (presentRead v s).rdata = v := rfl
@[simp] theorem presentRead_reads (v : BitVec 32) (s : State) : (presentRead v s).reads = s.reads ++ [v] := rfl
@[simp] theorem presentRead_chan (v : BitVec 32) (s : State) (c : Chan) : (presentRead v s).chan c = s.chan c := rfl
@[simp] theorem presentRead_cfg (v : BitVec 32) (s : State) : (presentRead v s).cfg = s.cfg := rfl
@[simp] theorem presentRead_out (v : BitVec 32) (s : State) : (presentRead v s).out = s.out := rfl
@[simp] theorem presentRead_fault (v : BitVec 32) (s : State) : (presentRead v s).fault = s.fault := rfl
@[simp] theorem presentRead_input (v : BitVec 32) (s : State) : (presentRead v s).input = s.input := rfl
@[simp] theorem presentRead_samples (v : BitVec 32) (s : State) : (presentRead v s).samples = s.samples := rfl

@[simp] theorem resetInput_chan (s : State) (c : Chan) : (resetInput s).chan c = ChannelRegs.reset s.cfg := by
  cases c <;> rfl
@[simp] theorem resetInput_cfg (s : State) : (resetInput s).cfg = s.cfg := rfl
@[simp] theorem resetInput_out (s : State) : (resetInput s).out = 0 := rfl
@[simp] theorem resetInput_fault (s : State) : (resetInput s).fault = 0 := rfl
@[simp] theorem resetInput_rdata (s : State) : (resetInput s).rdata = 0 := rfl
@[simp] theorem resetInput_input (s : State) : (resetInput s).input = s.input := rfl
@[simp] theorem resetInput_samples (s : State) : (resetInput s).samples = s.samples := rfl
@[simp] theorem resetInput_reads (s : State) : (resetInput s).reads = s.reads := rfl

@[simp] theorem resetWith_chan (cfg : Config) (c : Chan) : (State.resetWith cfg).chan c = ChannelRegs.reset cfg := by
  cases c <;> rfl

/-! ### The ring -/

theorem pred_ne (c : Chan) : pred c ≠ c := by
  cases c <;> decide

theorem pred_bits (c : Chan) : (pred c).bits.toNat = (c.bits.toNat + 3) % 4 := by
  cases c <;> decide

end Sys2Proof.Machine
end

