-- ==== Sys2Proof/Laws/Envelope.lean ====
section
/-! SUPPORT. The envelope actions case by case, and the rate-table lookups as the arithmetic of Safety.lean. -/
namespace Sys2Proof.Machine

/-! ### The four actions (43_sample.md R132), one equation for each case -/

theorem attackAction_below {inc : Nat} {r : ChannelRegs} (h : r.level.toNat + inc < maxLevel) :
    attackAction inc r = { r with level := BitVec.ofNat 24 (r.level.toNat + inc) } := by
  unfold attackAction
  exact if_neg (Nat.not_le_of_lt h)

theorem attackAction_clamped {inc : Nat} {r : ChannelRegs} (h : maxLevel ≤ r.level.toNat + inc) :
    attackAction inc r = { r with level := BitVec.ofNat 24 maxLevel, envst := .decay } := by
  unfold attackAction
  exact if_pos h

theorem decayAction_above {dec sus : Nat} {r : ChannelRegs} (h : (sus : Int) < (r.level.toNat : Int) - dec) :
    decayAction dec sus r = { r with level := BitVec.ofNat 24 (r.level.toNat - dec) } := by
  unfold decayAction
  exact if_neg (Int.not_le_of_gt h)

theorem decayAction_clamped {dec sus : Nat} {r : ChannelRegs} (h : (r.level.toNat : Int) - dec ≤ sus) :
    decayAction dec sus r = { r with level := BitVec.ofNat 24 sus, envst := .sustain } := by
  unfold decayAction
  exact if_pos h

theorem sustainAction_at {sus : Nat} {r : ChannelRegs} (h : r.level.toNat = sus) : sustainAction sus r = r := by
  unfold sustainAction
  exact if_neg (fun hn => hn h)

theorem sustainAction_away {sus : Nat} {r : ChannelRegs} (h : r.level.toNat ≠ sus) :
    sustainAction sus r = { r with envst := .attack } := by
  unfold sustainAction
  exact if_pos h

/-! ### The gate test and the lookups in arithmetic -/

theorem gateOn_iff (r : ChannelRegs) : gateOn r = true ↔ GateIsOn r := by
  simp [gateOn, flagGate, GateIsOn]

theorem vector_get_congr {α : Type} {n : Nat} (v : Vector α n) {i j : Fin n} (h : i.val = j.val) : v.get i = v.get j := by
  rw [Fin.ext h]

theorem attackIncrement_eq (cfg : Config) (r : ChannelRegs) : attackIncrement cfg r = attackOf cfg r := by
  unfold attackIncrement attackOf adsrA
  rw [vector_get_congr]
  simp [Fin.ofNat, Nat.shiftRight_eq_div_pow]

theorem decayDecrement_eq (cfg : Config) (r : ChannelRegs) : decayDecrement cfg r = decayOf cfg r := by
  unfold decayDecrement decayOf adsrD
  rw [vector_get_congr]
  simp [Fin.ofNat, Nat.shiftRight_eq_div_pow]

theorem releaseDecrement_eq (cfg : Config) (r : ChannelRegs) : releaseDecrement cfg r = releaseOf cfg r := by
  unfold releaseDecrement releaseOf adsrR
  rw [vector_get_congr]
  simp [Fin.ofNat]

theorem sustainLevel_eq (r : ChannelRegs) : sustainLevel r = sustainOf r := by
  simp [sustainLevel, sustainOf, adsrS, BitVec.extractLsb'_toNat, Nat.shiftRight_eq_div_pow]

/-- The sustain level is a level (10_state.md R31). -/
theorem sustainOf_le (r : ChannelRegs) : sustainOf r ≤ maxLevel := by
  unfold sustainOf maxLevel
  omega

end Sys2Proof.Machine
end

