-- ==== Sys2Proof/Laws/PerInstr.lean ====
section
/-! SUPPORT. Facts about every command as syntax, one lemma for each constructor. -/
namespace Sys2Proof.Laws

/-- The opcode and the channel field a command is encoded with (30_encoding.md R76; a command that acts on no channel
has 0 there, R73). -/
def opAndChan : Instr → BitVec 4 × BitVec 2
  | .nop => (0x0, 0)
  | .sample => (0x1, 0)
  | .pitch c _ => (0x2, c.bits)
  | .freq c _ => (0x3, c.bits)
  | .pwset c _ => (0x4, c.bits)
  | .pwadd c _ => (0x5, c.bits)
  | .wave c _ => (0x6, c.bits)
  | .gate c _ => (0x7, c.bits)
  | .adsr c _ _ _ _ => (0x8, c.bits)
  | .envrel c => (0x9, c.bits)
  | .active c _ => (0xA, c.bits)
  | .readPhase c => (0xB, c.bits)
  | .readFreq c => (0xB, c.bits)
  | .readPw c => (0xB, c.bits)
  | .readLfsr c => (0xB, c.bits)
  | .readLevel c => (0xB, c.bits)
  | .readEnvst c => (0xB, c.bits)
  | .readWave c => (0xB, c.bits)
  | .readGate c => (0xB, c.bits)
  | .readAdsr c => (0xB, c.bits)
  | .readActive c => (0xB, c.bits)
  | .readWaveout c => (0xB, c.bits)
  | .readOut => (0xB, 0)
  | .readFault => (0xB, 0)

/-- The fields of an encoded command: its opcode, its channel, and Z = 0 (30_encoding.md R70, R74). -/
def EncodingLayout.Statement (i : Instr) : Prop :=
  (encode i).op = (opAndChan i).1 ∧ (encode i).chan = (opAndChan i).2 ∧ (encode i).zero = 0

theorem layout_of (op : BitVec 4) (c : Chan) (d : BitVec 32) :
    (encodeFields op c d).op = op ∧ (encodeFields op c d).chan = c.bits ∧ (encodeFields op c d).zero = 0 :=
  ⟨Machine.op_ofFields _ _ _ _, Machine.chan_ofFields _ _ _ _, Machine.zero_ofFields _ _ _ _⟩

namespace EncodingLayout
theorem nop : Statement .nop := layout_of _ _ _
theorem sample : Statement .sample := layout_of _ _ _
theorem pitch (c : Chan) (q : BitVec 16) : Statement (.pitch c q) := layout_of _ _ _
theorem freq (c : Chan) (f : BitVec 28) : Statement (.freq c f) := layout_of _ _ _
theorem pwset (c : Chan) (v : BitVec 28) : Statement (.pwset c v) := layout_of _ _ _
theorem pwadd (c : Chan) (v : BitVec 28) : Statement (.pwadd c v) := layout_of _ _ _
theorem wave (c : Chan) (flags : BitVec 8) : Statement (.wave c flags) := layout_of _ _ _
theorem gate (c : Chan) (b : BitVec 1) : Statement (.gate c b) := layout_of _ _ _
theorem adsr (c : Chan) (a d su r : BitVec 4) : Statement (.adsr c a d su r) := layout_of _ _ _
theorem envrel (c : Chan) : Statement (.envrel c) := layout_of _ _ _
theorem active (c : Chan) (b : BitVec 1) : Statement (.active c b) := layout_of _ _ _
theorem readPhase (c : Chan) : Statement (.readPhase c) := layout_of _ _ _
theorem readFreq (c : Chan) : Statement (.readFreq c) := layout_of _ _ _
theorem readPw (c : Chan) : Statement (.readPw c) := layout_of _ _ _
theorem readLfsr (c : Chan) : Statement (.readLfsr c) := layout_of _ _ _
theorem readLevel (c : Chan) : Statement (.readLevel c) := layout_of _ _ _
theorem readEnvst (c : Chan) : Statement (.readEnvst c) := layout_of _ _ _
theorem readWave (c : Chan) : Statement (.readWave c) := layout_of _ _ _
theorem readGate (c : Chan) : Statement (.readGate c) := layout_of _ _ _
theorem readAdsr (c : Chan) : Statement (.readAdsr c) := layout_of _ _ _
theorem readActive (c : Chan) : Statement (.readActive c) := layout_of _ _ _
theorem readWaveout (c : Chan) : Statement (.readWaveout c) := layout_of _ _ _
theorem readOut : Statement .readOut := layout_of _ _ _
theorem readFault : Statement .readFault := layout_of _ _ _
end EncodingLayout

end Sys2Proof.Laws
end

