-- ==== Sys2Proof/Laws/Sample.lean ====
section
/-! SUPPORT. What the sub-steps of SAMPLE can do, once each, and the sample step as a whole. Later proofs cite these
and never unfold the sub-steps. -/
namespace Sys2Proof.Machine

/-! ### The envelope step writes only LEVEL and ENVST -/

/-- All that `env_step` leaves alone. -/
theorem envStep_frame (cfg : Config) (r : ChannelRegs) :
    envStep cfg r = { r with level := (envStep cfg r).level, envst := (envStep cfg r).envst } := by
  unfold envStep
  cases gateTest r
  · rfl
  · simp only [attackAction]; split <;> rfl
  · simp only [decayAction]; split <;> rfl
  · simp only [sustainAction]; split <;> rfl

@[simp] theorem envStep_phase (cfg : Config) (r : ChannelRegs) : (envStep cfg r).phase = r.phase := by
  rw [envStep_frame]
@[simp] theorem envStep_freq (cfg : Config) (r : ChannelRegs) : (envStep cfg r).freq = r.freq := by
  rw [envStep_frame]
@[simp] theorem envStep_pw (cfg : Config) (r : ChannelRegs) : (envStep cfg r).pw = r.pw := by
  rw [envStep_frame]
@[simp] theorem envStep_lfsr (cfg : Config) (r : ChannelRegs) : (envStep cfg r).lfsr = r.lfsr := by
  rw [envStep_frame]
@[simp] theorem envStep_wave (cfg : Config) (r : ChannelRegs) : (envStep cfg r).wave = r.wave := by
  rw [envStep_frame]
@[simp] theorem envStep_gate (cfg : Config) (r : ChannelRegs) : (envStep cfg r).gate = r.gate := by
  rw [envStep_frame]
@[simp] theorem envStep_adsr (cfg : Config) (r : ChannelRegs) : (envStep cfg r).adsr = r.adsr := by
  rw [envStep_frame]
@[simp] theorem envStep_active (cfg : Config) (r : ChannelRegs) : (envStep cfg r).active = r.active := by
  rw [envStep_frame]

/-- The gate test, by cases. -/
theorem gateTest_cases (r : ChannelRegs) :
    (gateOn r = false ∧ gateTest r = .release) ∨
    (gateOn r = true ∧ (r.envst = .release ∨ r.envst = .attack) ∧ gateTest r = .attack) ∨
    (gateOn r = true ∧ r.envst = .decay ∧ gateTest r = .decay) ∨
    (gateOn r = true ∧ r.envst = .sustain ∧ gateTest r = .sustain) := by
  unfold gateTest
  cases gateOn r <;> cases r.envst <;> decide

/-! ### Phase, sync, noise clock, wave latch: what each writes -/

/-- All that hard sync leaves alone. -/
theorem hardSync_frame (p r : ChannelRegs) : hardSync p r = { r with phase := (hardSync p r).phase } := by
  unfold hardSync; split <;> rfl

/-- All that the noise clock leaves alone. -/
theorem noiseClock_frame (old : BitVec 28) (r : ChannelRegs) :
    noiseClock old r = { r with lfsr := (noiseClock old r).lfsr } := by
  unfold noiseClock; split <;> rfl

/-- Every bit of the noise register after a clock. -/
theorem lfsrNext_getLsbD (v : BitVec 23) (i : Nat) :
    (lfsrNext v).getLsbD i =
      if i = 0 then v.getLsbD 22 ^^ v.getLsbD 17 else decide (i < 23) && v.getLsbD (i - 1) := by
  simp only [lfsrNext, BitVec.getLsbD_append, BitVec.getLsbD_extractLsb', Nat.zero_add]
  by_cases h : i = 0
  · subst h; simp
  · rw [if_neg (by omega), if_neg h]
    congr 1
    exact decide_eq_decide.mpr (by omega)

/-! ### One channel's sub-steps together -/

/-- PHASE after the phase step and hard sync of a channel. -/
def nextPhase (p r : ChannelRegs) : BitVec 28 := (hardSync p (phaseStep r)).phase

/-- LFSR after the noise clock of a channel. -/
def nextLfsr (p r : ChannelRegs) : BitVec 23 :=
  if noisePhase (nextPhase p r) ≠ noisePhase r.phase then lfsrNext r.lfsr else r.lfsr

theorem hardSync_envStep_phase (cfg : Config) (p r : ChannelRegs) :
    (hardSync p (phaseStep (envStep cfg r))).phase = nextPhase p r := by
  unfold nextPhase hardSync flagSync phaseStep
  simp only [envStep_wave, envStep_phase, envStep_freq]
  split <;> rfl

/-- One channel's sample step, register by register. -/
theorem stepChannelRegs_eq (cfg : Config) (p r : ChannelRegs) :
    stepChannelRegs cfg p r =
      { r with
        phase := nextPhase p r
        lfsr := nextLfsr p r
        level := (envStep cfg r).level
        envst := (envStep cfg r).envst
        waveout := combine cfg p (stepChannelRegs cfg p r) } := by
  have hn : noiseClock r.phase (hardSync p (phaseStep (envStep cfg r))) =
      { r with
        phase := nextPhase p r
        lfsr := nextLfsr p r
        level := (envStep cfg r).level
        envst := (envStep cfg r).envst } := by
    rw [noiseClock_frame, hardSync_frame, hardSync_envStep_phase]
    simp only [noiseClock, phaseStep, nextLfsr]
    rw [envStep_frame]
    split <;> rfl
  have hc : combine cfg p (stepChannelRegs cfg p r) =
      combine cfg p (noiseClock r.phase (hardSync p (phaseStep (envStep cfg r)))) := by
    unfold stepChannelRegs latchWave
    rfl
  rw [hc]
  unfold stepChannelRegs latchWave
  rw [hn]

section
variable (cfg : Config) (p r : ChannelRegs)
@[simp] theorem stepChannelRegs_phase : (stepChannelRegs cfg p r).phase = nextPhase p r := by
  rw [stepChannelRegs_eq]
@[simp] theorem stepChannelRegs_freq : (stepChannelRegs cfg p r).freq = r.freq := by
  rw [stepChannelRegs_eq]
@[simp] theorem stepChannelRegs_pw : (stepChannelRegs cfg p r).pw = r.pw := by
  rw [stepChannelRegs_eq]
@[simp] theorem stepChannelRegs_lfsr : (stepChannelRegs cfg p r).lfsr = nextLfsr p r := by
  rw [stepChannelRegs_eq]
@[simp] theorem stepChannelRegs_level : (stepChannelRegs cfg p r).level = (envStep cfg r).level := by
  rw [stepChannelRegs_eq]
@[simp] theorem stepChannelRegs_envst : (stepChannelRegs cfg p r).envst = (envStep cfg r).envst := by
  rw [stepChannelRegs_eq]
@[simp] theorem stepChannelRegs_wave : (stepChannelRegs cfg p r).wave = r.wave := by
  rw [stepChannelRegs_eq]
@[simp] theorem stepChannelRegs_gate : (stepChannelRegs cfg p r).gate = r.gate := by
  rw [stepChannelRegs_eq]
@[simp] theorem stepChannelRegs_adsr : (stepChannelRegs cfg p r).adsr = r.adsr := by
  rw [stepChannelRegs_eq]
@[simp] theorem stepChannelRegs_active : (stepChannelRegs cfg p r).active = r.active := by
  rw [stepChannelRegs_eq]
theorem stepChannelRegs_waveout :
    (stepChannelRegs cfg p r).waveout = combine cfg p (stepChannelRegs cfg p r) := by
  conv_lhs => rw [stepChannelRegs_eq]
end

/-! ### The four channels and the mixer -/

/-- The sum of the four contributions of a bank. -/
def bankSum (s : State) : Int :=
  contribution s.cfg (s.chan .c0) + contribution s.cfg (s.chan .c1) + contribution s.cfg (s.chan .c2) +
    contribution s.cfg (s.chan .c3)

/-- The four channels stepped in R131's order. -/
def stepAll (s : State) : State := stepChannel .c3 (stepChannel .c2 (stepChannel .c1 (stepChannel .c0 s)))

theorem stepChannel_chan (s : State) (c d : Chan) :
    (stepChannel c s).chan d =
      if d = c then stepChannelRegs s.cfg (s.chan (pred c)) (s.chan c) else s.chan d :=
  State.chan_setChan s c d _

@[simp] theorem stepChannel_cfg (s : State) (c : Chan) : (stepChannel c s).cfg = s.cfg := rfl

@[simp] theorem stepAll_cfg (s : State) : (stepAll s).cfg = s.cfg := rfl

/-- The loop's state is the four channels stepped in order, and its sum is that of their contributions: no later turn
changes a channel already stepped. -/
theorem mixChannels_eq (s : State) : mixChannels s = (stepAll s, bankSum (stepAll s)) := by
  simp [mixChannels, mixChannel, stepAll, bankSum, stepChannel_chan]

/-- The whole sample step as one update. -/
theorem sampleStep_eq (s : State) : sampleStep s = driveSample (clampSample (bankSum (stepAll s))) (stepAll s) := by
  simp [sampleStep, mixChannels_eq]

@[simp] theorem sampleStep_cfg (s : State) : (sampleStep s).cfg = s.cfg := by simp [sampleStep_eq]
@[simp] theorem sampleStep_fault (s : State) : (sampleStep s).fault = s.fault := by
  simp [sampleStep_eq, stepAll, stepChannel]
@[simp] theorem sampleStep_rdata (s : State) : (sampleStep s).rdata = s.rdata := by
  simp [sampleStep_eq, stepAll, stepChannel]
@[simp] theorem sampleStep_input (s : State) : (sampleStep s).input = s.input := by
  simp [sampleStep_eq, stepAll, stepChannel]
@[simp] theorem sampleStep_reads (s : State) : (sampleStep s).reads = s.reads := by
  simp [sampleStep_eq, stepAll, stepChannel]
theorem sampleStep_out (s : State) : (sampleStep s).out = clampSample (bankSum (sampleStep s)) := by
  simp [sampleStep_eq, bankSum]
@[simp] theorem sampleStep_samples (s : State) :
    (sampleStep s).samples = s.samples ++ [(sampleStep s).out] := by
  simp [sampleStep_eq, stepAll, stepChannel]

/-- Every channel after a sample step, from the predecessor it sees (R131). -/
theorem sampleStep_chan (s : State) (c : Chan) :
    (sampleStep s).chan c = stepChannelRegs s.cfg (seenPred s (sampleStep s) c) (s.chan c) := by
  cases c <;> simp [sampleStep_eq, stepAll, stepChannel_chan, seenPred, pred]

end Sys2Proof.Machine
end

