-- ==== Sys2Proof/Laws/Step.lean ====
section
/-! SUPPORT. The inversion of one step and of one command: every case they have, said once. -/
namespace Sys2Proof.Machine

@[simp] theorem nextOf_next (s : State) : nextOf (.next s) = some s := rfl

/-- The step of a state by what the host sends next. -/
theorem step_nil {s : State} (h : s.input = []) : step s = .next s := by
  unfold step; rw [h]

theorem step_reset {s : State} {rest : List HostInput} (h : s.input = .reset :: rest) :
    step s = .next (resetInput (dropInput s)) := by
  unfold step; rw [h]

theorem step_command {s : State} {w : Word} {rest : List HostInput} (h : s.input = .command w :: rest) :
    step s = acceptWord w (dropInput s) := by
  unfold step; rw [h]

theorem acceptWord_ok {w : Word} {i : Instr} (h : decode w = .ok i) (s : State) : acceptWord w s = exec i s := by
  unfold acceptWord; rw [h]

theorem acceptWord_error {w : Word} {k : FaultCode} (h : decode w = .error k) (s : State) :
    acceptWord w s = .next (raiseFault k s) := by
  unfold acceptWord; rw [h]; rfl

/-- Dropping the oldest input, when the list is known. -/
theorem dropInput_eq {s : State} {x : HostInput} {rest : List HostInput} (h : s.input = x :: rest) :
    dropInput s = { s with input := rest } := by
  unfold dropInput; rw [h]; rfl

/-- The state a command answers. No command stops. -/
def afterExec (i : Instr) (s : State) : State :=
  match nextOf (exec i s) with
  | some t => t
  | none => s

theorem exec_eq (i : Instr) (s : State) : exec i s = .next (afterExec i s) := by
  cases i
  case wave c flags =>
    simp only [afterExec, exec, execWave, rejectWord]
    split <;> rfl
  all_goals rfl

/-- Every way a step can go: nothing sent, a reset, a command that decodes, a word that does not. -/
theorem step_cases (s : State) :
    (s.input = [] ∧ step s = .next s) ∨
    (∃ rest, s.input = .reset :: rest ∧ step s = .next (resetInput (dropInput s))) ∨
    (∃ w rest i, s.input = .command w :: rest ∧ decode w = .ok i ∧ step s = .next (afterExec i (dropInput s))) ∨
    (∃ w rest k, s.input = .command w :: rest ∧ decode w = .error k ∧
      step s = .next (raiseFault k (dropInput s))) := by
  match hi : s.input with
  | [] => exact .inl ⟨rfl, step_nil hi⟩
  | .reset :: rest => exact .inr (.inl ⟨rest, rfl, step_reset hi⟩)
  | .command w :: rest =>
    match hd : decode w with
    | .ok i =>
      refine .inr (.inr (.inl ⟨w, rest, i, rfl, hd, ?_⟩))
      rw [step_command hi, acceptWord_ok hd, exec_eq]
    | .error k =>
      refine .inr (.inr (.inr ⟨w, rest, k, rfl, hd, ?_⟩))
      rw [step_command hi, acceptWord_error hd]

/-- Loading an increment is a write of FREQ, with PITCH_RANGE raised where the increment does not fit. -/
theorem loadIncrement_cases (c : Chan) (n : Nat) (s : State) :
    (n < 2 ^ 28 ∧ loadIncrement c n s = s.setChan c { s.chan c with freq := BitVec.ofNat 28 n }) ∨
    (2 ^ 28 ≤ n ∧ loadIncrement c n s = raiseFault .pitchRange (s.setChan c { s.chan c with freq := maxFreq })) := by
  unfold loadIncrement setFreq
  by_cases h : n ≤ 2 ^ 28 - 1
  · exact .inl ⟨by omega, if_pos h⟩
  · exact .inr ⟨by omega, if_neg h⟩

/-- Every way a command can change the state: `Effect s i t` when command `i` takes `s` to `t`. -/
inductive Effect (s : State) : Instr → State → Prop
  | nop : Effect s .nop s
  | sample : Effect s .sample (sampleStep s)
  | pitchFits (c : Chan) (q : BitVec 16) (h : pitchToFreq s.cfg (pitchOperand q) < 2 ^ 28) :
      Effect s (.pitch c q)
        (s.setChan c { s.chan c with freq := BitVec.ofNat 28 (pitchToFreq s.cfg (pitchOperand q)) })
  | pitchSaturates (c : Chan) (q : BitVec 16) (h : 2 ^ 28 ≤ pitchToFreq s.cfg (pitchOperand q)) :
      Effect s (.pitch c q) (raiseFault .pitchRange (s.setChan c { s.chan c with freq := maxFreq }))
  | freq (c : Chan) (f : BitVec 28) : Effect s (.freq c f) (s.setChan c { s.chan c with freq := f })
  | pwset (c : Chan) (v : BitVec 28) : Effect s (.pwset c v) (s.setChan c { s.chan c with pw := v })
  | pwadd (c : Chan) (v : BitVec 28) :
      Effect s (.pwadd c v) (s.setChan c { s.chan c with pw := (s.chan c).pw + v })
  | wave (c : Chan) (flags : BitVec 8) (h : flags.getLsbD 3 = false) :
      Effect s (.wave c flags) (s.setChan c (writeWaveReg (s.chan c) flags))
  | waveRejected (c : Chan) (flags : BitVec 8) (h : flags.getLsbD 3 = true) :
      Effect s (.wave c flags) (raiseFault .reservedField s)
  | gate (c : Chan) (b : BitVec 1) : Effect s (.gate c b) (s.setChan c { s.chan c with gate := b })
  | adsr (c : Chan) (a d su r : BitVec 4) :
      Effect s (.adsr c a d su r) (s.setChan c { s.chan c with adsr := packAdsr a d su r })
  | envrel (c : Chan) : Effect s (.envrel c) (s.setChan c { s.chan c with envst := .release })
  | active (c : Chan) (b : BitVec 1) : Effect s (.active c b) (s.setChan c { s.chan c with active := b })
  | read (i : Instr) (v : BitVec 32) (h : isRead i = true) : Effect s i (presentRead v s)

/-- The inversion of exec: a command's next state is one of its effects. -/
theorem effect_afterExec (i : Instr) (s : State) : Effect s i (afterExec i s) := by
  cases i
  case nop => exact .nop
  case sample => exact .sample
  case pitch c q =>
    have h : afterExec (.pitch c q) s = loadIncrement c (pitchToFreq s.cfg (pitchOperand q)) s := rfl
    rw [h]
    rcases loadIncrement_cases c (pitchToFreq s.cfg (pitchOperand q)) s with ⟨hn, h⟩ | ⟨hn, h⟩ <;> rw [h]
    · exact .pitchFits c q hn
    · exact .pitchSaturates c q hn
  case wave c flags =>
    cases h : flags.getLsbD 3
    · have e : afterExec (.wave c flags) s = s.setChan c (writeWaveReg (s.chan c) flags) := by
        simp only [afterExec, exec, execWave, h]; rfl
      rw [e]; exact .wave c flags h
    · have e : afterExec (.wave c flags) s = raiseFault .reservedField s := by
        simp only [afterExec, exec, execWave, h]; rfl
      rw [e]; exact .waveRejected c flags h
  case freq c f => exact .freq c f
  case pwset c v => exact .pwset c v
  case pwadd c v => exact .pwadd c v
  case gate c b => exact .gate c b
  case adsr c a d su r => exact .adsr c a d su r
  case envrel c => exact .envrel c
  case active c b => exact .active c b
  all_goals exact .read _ _ rfl

theorem effect_of_exec {i : Instr} {s t : State} (h : exec i s = .next t) : Effect s i t := by
  rw [exec_eq] at h
  cases h
  exact effect_afterExec i s

end Sys2Proof.Machine
end

