-- ==== Sys2Proof/Laws/Pitch.lean ====
section
/-! SUPPORT. The search that evaluates the pitch converter: for a test that is true up to some number and false after
it, it answers that number. -/
namespace Sys2Proof.Machine

/-- `searchBits` answers a number that passes the test, not below where it starts, and the next number fails. -/
theorem searchBits_spec (test : Nat → Bool) :
    ∀ bits acc, test acc = true → test (acc + 2 ^ bits) = false →
      test (searchBits test bits acc) = true ∧ acc ≤ searchBits test bits acc ∧
        test (searchBits test bits acc + 1) = false := by
  intro bits
  induction bits with
  | zero => intro acc h0 h1; exact ⟨h0, Nat.le_refl _, h1⟩
  | succ b ih =>
    intro acc h0 h1
    simp only [searchBits]
    by_cases hb : test (acc + 2 ^ b) = true
    · have h2 : test (acc + 2 ^ b + 2 ^ b) = false := by
        rw [Nat.add_assoc, ← Nat.two_mul, ← Nat.pow_succ']; exact h1
      have := ih (acc + 2 ^ b) hb h2
      rw [if_pos hb]
      exact ⟨this.1, (Nat.le_add_right _ _).trans this.2.1, this.2.2⟩
    · have h2 : test (acc + 2 ^ b) = false := by simpa using hb
      rw [if_neg hb]
      exact ih acc h0 h2

/-- A smaller number fits where a greater does. -/
theorem pitchFits_mono (sampleRate : Nat) (q : Int) (a b : Nat) (h : a ≤ b) (hb : pitchFits sampleRate q b = true) :
    pitchFits sampleRate q a = true := by
  simp only [pitchFits, decide_eq_true_eq] at hb ⊢
  exact (Nat.mul_le_mul_right _ (Nat.pow_le_pow_left (Nat.mul_le_mul_right _ h) 48)).trans hb

end Sys2Proof.Machine
end

