-- ==== Sys2Proof/Tests/Slice0.lean ====
section
/-! SUPPORT. The model's own tests, each with the spec's example or vector it checks, and for every obligation with
hypotheses a state and operands that meet them. -/
namespace Sys2Proof.Tests
open Sys2Proof Sys2Proof.Machine

/-! ### Small states and one-step checks -/

/-- The reset state with one channel changed. -/
def chanWith (c : Chan) (f : ChannelRegs → ChannelRegs) : State := State.reset.setChan c (f (State.reset.chan c))

/-- The reset state with one command word waiting. -/
def sent (w : Word) : State := State.reset.issue [.command w]

/-- The command runs and its next state passes the check. -/
def after (i : Instr) (s : State) (check : State → Bool) : Bool :=
  match nextOf (exec i s) with
  | some t => check t
  | none => false

/-- The step runs and its next state passes the check. -/
def stepped (s : State) (check : State → Bool) : Bool :=
  match nextOf (step s) with
  | some t => check t
  | none => false

/-- Channel 0 with its gate on, at a level, in an envelope state, with an ADSR. -/
def envAt (st : EnvState) (level : BitVec 24) (adsr : BitVec 16) : State :=
  chanWith .c0 fun r => { r with envst := st, level := level, adsr := adsr, gate := 1, wave := 0x01 }

/-- Channel 0 at a phase, with flags and a pulse width, FREQ 0. -/
def waveAt (phase : BitVec 28) (flags : BitVec 8) (pw : BitVec 28) : State :=
  chanWith .c0 fun r => { r with phase := phase, wave := flags, pw := pw }

/-! ### WellFormed: the one check (10_state.md R33) -/

/-- 95_test_vectors.md V-W1: flags 0xF7 are legal. -/
theorem test_wellformed_accepts : (Instr.wave .c0 0xF7).wellFormed = true := by decide

/-- R33: bit 3 is reserved, whatever the other bits are. -/
theorem test_wellformed_refuses_wave_bit_3 :
    (Instr.wave .c0 0x08).wellFormed = false ∧ (Instr.wave .c3 0xFF).wellFormed = false := by decide

/-! ### Decode: words written out field by field as OP, CH, Z, DATA (30_encoding.md R70, R75, R76) -/

/-- NOP and SAMPLE. -/
theorem test_decode_fixed_words :
    decode (0b0000#4 ++ 0b00#2 ++ 0b00#2 ++ 0x00000000#32) = .ok .nop ∧
    decode (0b0001#4 ++ 0b00#2 ++ 0b00#2 ++ 0x00000000#32) = .ok .sample := by decide

/-- PITCH and FREQ. -/
theorem test_decode_pitch_family :
    decode (0b0010#4 ++ 0b01#2 ++ 0b00#2 ++ 0x000000E8#32) = .ok (.pitch .c1 232) ∧
    decode (0b0010#4 ++ 0b00#2 ++ 0b00#2 ++ 0x0000FFFC#32) = .ok (.pitch .c0 (-4)) ∧
    decode (0b0011#4 ++ 0b10#2 ++ 0b00#2 ++ 0x08000000#32) = .ok (.freq .c2 0x8000000) := by decide

/-- PWSET, PWADD and WAVE. -/
theorem test_decode_waveform_family :
    decode (0b0100#4 ++ 0b11#2 ++ 0b00#2 ++ 0x04000000#32) = .ok (.pwset .c3 0x4000000) ∧
    decode (0b0101#4 ++ 0b00#2 ++ 0b00#2 ++ 0x0FFF0000#32) = .ok (.pwadd .c0 0xFFF0000) ∧
    decode (0b0110#4 ++ 0b00#2 ++ 0b00#2 ++ 0x00000051#32) = .ok (.wave .c0 0b01010001) := by decide

/-- GATE, ADSR and ENVREL. -/
theorem test_decode_envelope_family :
    decode (0b0111#4 ++ 0b11#2 ++ 0b00#2 ++ 0x00000001#32) = .ok (.gate .c3 1) ∧
    decode (0b1000#4 ++ 0b00#2 ++ 0b00#2 ++ 0x000009A0#32) = .ok (.adsr .c0 0 9 10 0) ∧
    decode (0b1001#4 ++ 0b10#2 ++ 0b00#2 ++ 0x00000000#32) = .ok (.envrel .c2) := by decide

/-- ACTIVE, and READ of every select of 20_memory.md R51. -/
theorem test_decode_host_family :
    decode (0b1010#4 ++ 0b01#2 ++ 0b00#2 ++ 0x00000000#32) = .ok (.active .c1 0) ∧
    decode (0b1011#4 ++ 0b10#2 ++ 0b00#2 ++ 0x00000000#32) = .ok (.readPhase .c2) ∧
    decode (0b1011#4 ++ 0b10#2 ++ 0b00#2 ++ 0x00000001#32) = .ok (.readFreq .c2) ∧
    decode (0b1011#4 ++ 0b10#2 ++ 0b00#2 ++ 0x00000002#32) = .ok (.readPw .c2) ∧
    decode (0b1011#4 ++ 0b10#2 ++ 0b00#2 ++ 0x00000003#32) = .ok (.readLfsr .c2) ∧
    decode (0b1011#4 ++ 0b10#2 ++ 0b00#2 ++ 0x00000004#32) = .ok (.readLevel .c2) ∧
    decode (0b1011#4 ++ 0b10#2 ++ 0b00#2 ++ 0x00000005#32) = .ok (.readEnvst .c2) ∧
    decode (0b1011#4 ++ 0b10#2 ++ 0b00#2 ++ 0x00000006#32) = .ok (.readWave .c2) ∧
    decode (0b1011#4 ++ 0b10#2 ++ 0b00#2 ++ 0x00000007#32) = .ok (.readGate .c2) ∧
    decode (0b1011#4 ++ 0b10#2 ++ 0b00#2 ++ 0x00000008#32) = .ok (.readAdsr .c2) ∧
    decode (0b1011#4 ++ 0b10#2 ++ 0b00#2 ++ 0x00000009#32) = .ok (.readActive .c2) ∧
    decode (0b1011#4 ++ 0b10#2 ++ 0b00#2 ++ 0x0000000A#32) = .ok (.readWaveout .c2) ∧
    decode (0b1011#4 ++ 0b00#2 ++ 0b00#2 ++ 0x0000000B#32) = .ok .readOut ∧
    decode (0b1011#4 ++ 0b00#2 ++ 0b00#2 ++ 0x0000000C#32) = .ok .readFault := by decide

/-- The illegal words of 95_test_vectors.md V-H2, V-W1 and V-E10, with the code of each. -/
theorem test_decode_rejects :
    ∀ e ∈ ([(0xC000000000, .illegalOpcode), (0xF700000005, .illegalOpcode), (0x0100000000, .reservedField),
        (0x0800000000, .reservedField), (0x0000000001, .reservedField), (0x1400000000, .reservedField),
        (0x2000010000, .reservedField), (0x3010000000, .reservedField), (0x6000000008, .reservedField),
        (0x6000000100, .reservedField), (0x8000010000, .reservedField), (0x7000000002, .reservedField),
        (0x9000000001, .reservedField), (0xA000000002, .reservedField), (0xB00000000D, .illegalSelect),
        (0xBC0000000F, .illegalSelect), (0xB00000001D, .reservedField), (0xB40000000B, .reservedField),
        (0xBC0000000C, .reservedField)] : List (Word × FaultCode)),
      decode e.1 = .error e.2 := by decide

/-- The rows of opcode_table.json as the host gives them: READ.LEVEL of c2 is one, READ of select 13 is none. -/
theorem test_decodeTableWord :
    decodeTableWord 40 0xB800000004 = some (.readLevel .c2) ∧ decodeTableWord 40 0xB00000000D = none ∧
    decodeTableWord 8 0x00 = some .nop := by decide

/-- The same word, given to a machine right after reset, runs: 95_test_vectors.md P1's READ OUT. -/
theorem test_withFetchWord : stepped (State.reset.withFetchWord 40 0x3001234567) (fun t =>
    (t.chan .c0).freq = 0x1234567 && t.input = []) = true := by decide

/-- 20_memory.md R52: least significant byte first. -/
theorem test_host_bytes :
    bytesOfWord 0x24000000E8 = [0xE8, 0x00, 0x00, 0x00, 0x24] ∧ bytesOfSample 0xFBE2 = [0xE2, 0xFB] ∧
    decodeBytes [0xE8, 0x00, 0x00, 0x00, 0x24, 0x77] = some (.ok (.pitch .c1 232), [0x77]) := by decide

/-! ### Reset, the step and FAULT -/

/-- 70_reset_and_hazards.md R210. -/
theorem test_reset_values :
    State.reset.chan .c3 = { phase := 0, freq := 0, pw := 0, lfsr := 0x7FFFF8, level := 0, envst := .release,
                             wave := 0, gate := 0, adsr := 0, active := 1, waveout := 0 } ∧
    State.reset.out = 0 ∧ State.reset.fault = 0 ∧ State.reset.rdata = 0 := by decide

/-- R210: the reset input restores a written register and clears FAULT. -/
theorem test_reset_input :
    stepped ({ chanWith .c1 (fun r => { r with freq := 5, active := 0 }) with fault := 3, input := [.reset] }) (fun t =>
      (t.chan .c1).freq = 0 && (t.chan .c1).active = 1 && t.fault = 0 && t.input = []) = true := by decide

/-- 95_test_vectors.md V-H2: a SAMPLE with CH = 1 faults, produces no sample and steps no channel. -/
theorem test_step_faulting_sample :
    stepped (sent 0x1400000000) (fun t => t.fault = 2 && t.samples = [] && (t.chan .c0).waveout = 0) = true := by decide

/-- V-H3: FAULT keeps the first code, and a faulting READ leaves RDATA. -/
theorem test_step_keeps_first_fault :
    stepped { sent 0xC000000000 with fault := 3 } (fun t => t.fault = 3) = true ∧
    stepped { sent 0xB00000000D with rdata := 7 } (fun t => t.fault = 3 && t.rdata = 7 && t.reads = []) = true := by
  decide

/-! ### One step of each command -/

/-- 95_test_vectors.md V-H4. -/
theorem test_nop : after .nop (envAt .decay 77 0x1234) (fun t => t = envAt .decay 77 0x1234) = true := by decide

/-- V-P1: the pitches −32768, −793, −792, −100, 0, 1, 232 and 551. -/
theorem test_pitch_values :
    after (.pitch .c0 0x8000) State.reset (fun t => (t.chan .c0).freq = 0 && t.fault = 0) = true ∧
    after (.pitch .c0 0xFCE7) State.reset (fun t => (t.chan .c0).freq = 0 && t.fault = 0) = true ∧
    after (.pitch .c0 0xFCE8) State.reset (fun t => (t.chan .c0).freq = 1 && t.fault = 0) = true ∧
    after (.pitch .c0 0xFF9C) State.reset (fun t => (t.chan .c0).freq = 22168 && t.fault = 0) = true ∧
    after (.pitch .c0 0x0000) State.reset (fun t => (t.chan .c0).freq = 93945 && t.fault = 0) = true ∧
    after (.pitch .c0 0x0001) State.reset (fun t => (t.chan .c0).freq = 95311 && t.fault = 0) = true ∧
    after (.pitch .c0 0x00E8) State.reset (fun t => (t.chan .c0).freq = 2678267 && t.fault = 0) = true ∧
    after (.pitch .c0 0x0227) State.reset (fun t => (t.chan .c0).freq = 268194054 && t.fault = 0) = true := by
  decide +kernel

/-- V-P1: the pitches 552 and 32767 saturate with code 4. -/
theorem test_pitch_saturates :
    after (.pitch .c0 552) State.reset (fun t => (t.chan .c0).freq = 0xFFFFFFF && t.fault = 4) = true ∧
    after (.pitch .c0 0x7FFF) State.reset (fun t => (t.chan .c0).freq = 0xFFFFFFF && t.fault = 4) = true := by
  decide +kernel

/-- V-P2: PITCH does not touch PHASE; V-X2's FREQ. -/
theorem test_freq :
    after (.freq .c1 0x3000000) (chanWith .c1 fun r => { r with phase := 9 }) (fun t =>
      (t.chan .c1).freq = 0x3000000 && (t.chan .c1).phase = 9 && (t.chan .c0).freq = 0) = true := by decide

/-- V-W2: PWSET. -/
theorem test_pwset :
    after (.pwset .c1 0xFFFFFFF) State.reset (fun t => (t.chan .c1).pw = 0xFFFFFFF && (t.chan .c0).pw = 0) = true := by
  decide

/-- V-W2: PWADD wraps. -/
theorem test_pwadd_wraps :
    after (.pwadd .c0 0x10000) (waveAt 0 0 0xFFF8000) (fun t => (t.chan .c0).pw = 0x0008000) = true ∧
    after (.pwadd .c0 0xFFF0000) (waveAt 0 0 0x0008000) (fun t => (t.chan .c0).pw = 0xFFF8000) = true := by decide

/-- V-W1: WAVE. -/
theorem test_wave : after (.wave .c0 0xF7) State.reset (fun t => (t.chan .c0).wave = 0xF7 && t.fault = 0) = true := by
  decide

/-- 10_state.md R33: with bit 3 set nothing is written (log 7). -/
theorem test_wave_bit_3 :
    after (.wave .c0 0x09) (waveAt 0 0x21 0) (fun t => (t.chan .c0).wave = 0x21 && t.fault = 2) = true := by decide

/-- 30_encoding.md R82: GATE. -/
theorem test_gate :
    after (.gate .c3 1) State.reset (fun t => (t.chan .c3).gate = 1 && (t.chan .c3).envst = .release) = true := by decide

/-- 41_envelope_control.md R110's example. -/
theorem test_adsr :
    after (.adsr .c0 0 9 10 0) State.reset (fun t => (t.chan .c0).adsr = 0x09A0 && sustainOf (t.chan .c0) = 0xAAAAAA) =
      true := by decide

/-- V-E3: ENVREL leaves LEVEL. -/
theorem test_envrel :
    after (.envrel .c0) (envAt .attack 0x0D8B80 0) (fun t =>
      (t.chan .c0).envst = .release && (t.chan .c0).level = 0x0D8B80) = true := by decide

/-- V-H4: ACTIVE. -/
theorem test_active :
    after (.active .c1 0) State.reset (fun t => (t.chan .c1).active = 0 && (t.chan .c0).active = 1) = true := by decide

/-- Channel 2 as V-H1 leaves it after its SAMPLE. -/
def vh1 : State :=
  { chanWith .c2 (fun r =>
      { r with phase := 0x28DDFB, freq := 0x28DDFB, pw := 0x123, level := 0xB9C2, envst := .attack, wave := 0x51,
               gate := 1, adsr := 0x1234, waveout := 0x05 }) with
    out := 0xFFA6 }

/-- V-H1: READ of every select. -/
theorem test_reads :
    ∀ e ∈ ([(.readPhase .c2, 0x0028DDFB), (.readFreq .c2, 0x0028DDFB), (.readPw .c2, 0x00000123),
        (.readLfsr .c2, 0x007FFFF8), (.readLevel .c2, 0x0000B9C2), (.readEnvst .c2, 0x00000001),
        (.readWave .c2, 0x00000051), (.readGate .c2, 0x00000001), (.readAdsr .c2, 0x00001234),
        (.readActive .c2, 0x00000001), (.readWaveout .c2, 0x00000005), (.readOut, 0x0000FFA6),
        (.readFault, 0x00000000)] : List (Instr × BitVec 32)),
      after e.1 vh1 (fun t => t.rdata = e.2 && t.reads = [e.2]) = true := by decide

/-- V-H1's SAMPLE, and 43_sample.md R130's example: a SAMPLE after reset. -/
theorem test_sample :
    after .sample { vh1.setChan .c2 { vh1.chan .c2 with phase := 0, level := 0, envst := .release, waveout := 0 } with
      out := 0 } (fun t => t.chan .c2 = vh1.chan .c2 && t.out = 0xFFA6 && t.samples = [0xFFA6]) = true ∧
    after .sample State.reset (fun t => t.chan .c0 = { State.reset.chan .c0 with waveout := 0xFF } && t.out = 0) =
      true := by decide

/-- V-X3, samples 4 and 3: channel 0 is synced by channel 3's phase of the sample before, and only then; P2, sample 4: a
wrap of channel 0 syncs channels 1 and 2 in the same sample, and clocks their noise registers. -/
theorem test_sample_sync :
    after .sample ((chanWith .c3 fun r => { r with phase := 0x2000000, freq := 0x6000000 }).setChan .c0
      { State.reset.chan .c0 with phase := 0x2000000, freq := 0x1000000, wave := 0x02 }) (fun t =>
      (t.chan .c0).phase = 0x0555555 && (t.chan .c3).phase = 0x8000000) = true ∧
    after .sample ((chanWith .c3 fun r => { r with phase := 0xC000000, freq := 0x6000000 }).setChan .c0
      { State.reset.chan .c0 with phase := 0x1000000, freq := 0x1000000, wave := 0x02 }) (fun t =>
      (t.chan .c0).phase = 0x2000000 && (t.chan .c3).phase = 0x2000000) = true ∧
    after .sample (((chanWith .c0 fun r => { r with phase := 0xC000000, freq := 0x4000000 }).setChan .c1
      { State.reset.chan .c1 with phase := 0x9000000, freq := 0x3000000, wave := 0x02 }).setChan .c2
      { State.reset.chan .c2 with phase := 0xF000000, freq := 0x5000000, wave := 0x02 }) (fun t =>
      (t.chan .c0).phase = 0 && (t.chan .c1).phase = 0 && (t.chan .c2).phase = 0 &&
      (t.chan .c2).lfsr = 0x7FFFF0) = true := by decide

/-! ### The operations of the sample step, on one channel's registers -/

/-- The envelope step leaves this state and level. -/
def envGives (s : State) (st : EnvState) (level : BitVec 24) : Bool :=
  let r := envStep Config.default (s.chan .c0)
  r.envst = st && r.level = level

/-- 95_test_vectors.md V-S3 (samples 89 and 90), V-E6 and V-E5: attack clamp, decay, a raised sustain level in DECAY, a
changed one in SUSTAIN. -/
theorem test_env_gate_on :
    envGives (envAt .attack 16739096 0x0080) .decay 0xFFFFFF = true ∧
    envGives (envAt .decay 0xFFFFFF 0x0080) .decay 16713810 = true ∧
    envGives (envAt .decay 0xFF0852 0x00F0) .sustain 0xFFFFFF = true ∧
    envGives (envAt .sustain 0x888888 0x00A0) .attack 0x888888 = true := by decide

/-- V-E1, V-E4: RELEASE by either gate; and a level below the decrement ends at 0. -/
theorem test_env_gate_off :
    envGives (chanWith .c0 fun r => { r with envst := .attack, level := 0x08B51B, wave := 0x01 }) .release 0x07BD6E =
      true ∧
    envGives (chanWith .c0 fun r => { r with envst := .attack, level := 0x107289, gate := 1 }) .release 0x0F7ADC =
      true ∧
    envGives (chanWith .c0 fun r => { r with level := 63404 }) .release 0 = true := by decide

/-- V-S2: the phase wraps. -/
theorem test_phase_wraps :
    (phaseStep { State.reset.chan .c0 with phase := 0xC000000, freq := 0xC000000 }).phase = 0x8000000 := by decide

/-- V-S6: the noise register at samples 16, 17 and 48, and the noise byte of the seed. -/
theorem test_noise :
    lfsrNext 0x7C0000 = 0x780001 ∧ lfsrNext 0x780001 = 0x700003 ∧ lfsrNext 0x003FF0 = 0x007FE0 ∧
    noiseByte Config.default (State.reset.chan .c0) = 0xFE ∧
    noiseByte Config.default { State.reset.chan .c0 with lfsr := 0x007FE0 } = 0x1C := by decide

/-- V-X6: a muted channel without the NOISE flag clocks its noise register when PHASE[27:23] changes, and only then. -/
theorem test_noise_clock :
    (noiseClock 0x7FFFFF { State.reset.chan .c0 with phase := 0x800000, active := 0 }).lfsr = 0x7FFFF0 ∧
    (noiseClock 0x000000 { State.reset.chan .c0 with phase := 0x7FFFFF, active := 0 }).lfsr = 0x7FFFF8 := by decide

/-- The byte of a channel 0 in that state, with a predecessor at phase 0. -/
def byteIs (s : State) (b : BitVec 8) : Bool := combine Config.default (s.chan .c3) (s.chan .c0) = b

/-- V-X1: triangle bytes. -/
theorem test_triangle :
    byteIs (waveAt 0x0000000 0x10 0) 0x00 = true ∧
    byteIs (waveAt 0x0080000 0x10 0) 0x01 = true ∧
    byteIs (waveAt 0x7FFFFFF 0x10 0) 0xFF = true ∧
    byteIs (waveAt 0x8000000 0x10 0) 0xFF = true ∧
    byteIs (waveAt 0x8080000 0x10 0) 0xFE = true ∧
    byteIs (waveAt 0x9876543 0x10 0) 0xCF = true ∧
    byteIs (waveAt 0xFFFFFFF 0x10 0) 0x00 = true := by
  decide

/-- V-X1: sawtooth bytes. -/
theorem test_sawtooth :
    byteIs (waveAt 0x0000000 0x20 0) 0x00 = true ∧
    byteIs (waveAt 0x0080000 0x20 0) 0x00 = true ∧
    byteIs (waveAt 0x7FFFFFF 0x20 0) 0x7F = true ∧
    byteIs (waveAt 0x8000000 0x20 0) 0x80 = true ∧
    byteIs (waveAt 0x8080000 0x20 0) 0x80 = true ∧
    byteIs (waveAt 0x9876543 0x20 0) 0x98 = true ∧
    byteIs (waveAt 0xFFFFFFF 0x20 0) 0xFF = true := by
  decide

/-- V-W3: pulse thresholds; V-X5: SAW with TRI. -/
theorem test_pulse_and_combination :
    byteIs (waveAt 0 0x40 0) 0x00 = true ∧
    byteIs (waveAt 1 0x40 0) 0xFF = true ∧
    byteIs (waveAt 0xFFFFFFF 0x40 0xFFFFFFF) 0x00 = true ∧
    byteIs (waveAt 0x8000000 0x40 0x8000000) 0x00 = true ∧
    byteIs (waveAt 0x8000001 0x40 0x8000000) 0xFF = true ∧
    byteIs (waveAt 0x9876543 0x30 0) 0x88 = true := by
  decide

/-- V-X4, samples 1 and 2: ring modulation by the predecessor's phase of this sample. -/
theorem test_ring_modulation :
    triByte { State.reset.chan .c0 with phase := 0x8000000 }
      { State.reset.chan .c1 with phase := 0x1000000, wave := 0x14 } = 0xDF ∧
    triByte { State.reset.chan .c0 with phase := 0x0000000 }
      { State.reset.chan .c1 with phase := 0x2000000, wave := 0x14 } = 0x40 := by decide

/-- A channel in SUSTAIN at full level, with more flags and a pulse width. -/
def loud (flags : BitVec 8) (pw : BitVec 28) : ChannelRegs :=
  { State.reset.chan .c0 with envst := .sustain, level := 0xFFFFFF, adsr := 0x00F0, gate := 1, wave := 0x01 ||| flags,
                              pw := pw }

/-- V-X7: one and two loud channels. -/
theorem test_mixer_clamps :
    (sampleStep (State.reset.setChan .c0 (loud 0 0))).out = 0x7EFF ∧
    (sampleStep ((State.reset.setChan .c0 (loud 0 0)).setChan .c1 (loud 0 0))).out = 0x7FFF ∧
    (sampleStep (State.reset.setChan .c0 (loud 0x40 0xFFFFFFF))).out = 0x8000 ∧
    (sampleStep ((State.reset.setChan .c0 (loud 0x40 0xFFFFFFF)).setChan .c1 (loud 0x40 0xFFFFFFF))).out = 0x8000 := by
  decide

/-- V-X7's rounding, and P3: a muted channel is not summed. -/
theorem test_mixer_rounds_and_mutes :
    contribution Config.default { State.reset.chan .c0 with waveout := 0x7F, level := 190217 } = -3 ∧
    (sampleStep ((State.reset.setChan .c0 (loud 0 0)).setChan .c1 { loud 0x40 0xFFFFFFF with active := 0 })).out =
      0x7EFF ∧
    (sampleStep ((State.reset.setChan .c0 (loud 0 0)).setChan .c1 (loud 0x40 0xFFFFFFF))).out = 0xFEFF := by decide

/-! ### The assembler (30_encoding.md R80, R81) -/

/-- The flag names, comments, white space and both ADSR forms. -/
theorem test_assemble_forms :
    assembleLine "  WAVE c0, GATE|PULSE|TRI   # flags".toList = some [0x6000000051] ∧
    assembleLine "WAVE 3, NONE".toList = some [0x6C00000000] ∧
    assembleLine "ADSR c0, 0x9A0".toList = some [0x80000009A0] ∧
    assembleLine "ADSR c2, 1, 2, 3, 4".toList = some [0x8800001234] ∧
    assembleLine "ADSR c2, 0x1234".toList = some [0x8800001234] ∧
    assembleLine "READ c2, WAVEOUT".toList = some [0xB80000000A] ∧
    assembleLine "READ FAULT".toList = some [0xB00000000C] ∧
    assembleLine ".word 0xC000000000".toList = some [0xC000000000] ∧
    assembleLine "# nothing".toList = some [] := by decide

/-- The pseudo-instructions, from R81's expansions. -/
theorem test_assemble_pseudo :
    parseLine "NOTE c0, 58".toList = some [.pitch .c0 232] ∧
    parseLine "NOTE c0, 58, -3".toList = some [.pitch .c0 229] ∧
    parseLine "NOTEOFF c1".toList = some [.gate .c1 0] ∧
    parseLine "BIND c0, 0, 0, 8, 0".toList = some [.adsr .c0 0 0 8 0, .gate .c0 1, .envrel .c0] ∧
    parseLine "SILENCE c2".toList = some [.gate .c2 0, .envrel .c2] ∧
    parseLine "MUTE c3".toList = some [.active .c3 0] ∧
    parseLine "UNMUTE c3".toList = some [.active .c3 1] ∧
    parseLine "RENDER 3".toList = some [.sample, .sample, .sample] := by decide

/-- R80's refusals. -/
theorem test_assemble_refuses :
    ∀ l ∈ ["PITCH c0, 32768", "FREQ c0, 0x10000000", "PWADD c0, -134217729", "WAVE c0, 8", "WAVE c0, TEST", "GATE c0, 2",
        "ADSR c0, 16, 0, 0, 0", "READ c0, 13", "READ c0, OUT", "READ LEVEL", "NOTE c0, 97", "FREQ c4, 0", "NOP c0",
        ".word 0x10000000000"],
      assembleLine l.toList = none := by decide +kernel

/-- 70_reset_and_hazards.md R215, 92_eei_decisions.md D7: L = 882 at 44100. -/
theorem test_tick_length :
    tickLength Config.default = 882 ∧ (tickCommands Config.default [.gate .c0 1]).length = 883 := by decide +kernel

/-! ### Witnesses: states and operands that meet the hypotheses of each obligation, clause by clause -/

/-- The default parameters meet the laws of 00_scope.md R7. -/
theorem default_lawful : Config.default.Lawful := by
  constructor <;> decide

/-- The reset state meets the invariant of 10_state.md R42. -/
theorem reset_inv : State.reset.Inv := by
  refine ⟨default_lawful, fun c => ?_, by decide⟩
  cases c <;> exact ⟨by decide, by decide⟩

theorem witness_DecodeOfEncodeIsTheCommand : (Instr.wave .c3 0xF7).WellFormed := by decide

theorem witness_EncodeOfDecodeIsTheWord : decode 0x6C000000F7 = .ok (.wave .c3 0xF7) := by decide

theorem witness_EveryWordIsOneTableRowOrIllegal :
    IllegalWord 0xC000000000 ∧
    (¬IllegalWord 0xB00000000C ∧ decode 0xB00000000C = .ok .readFault ∧
      (⟨"READ.FAULT", 0xB00000000C, 0xFFFFFFFFFF⟩ : OpcodeRow) ∈ opcodeTable) := by
  and_intros <;> decide

/-- One word for each check, at the edge of its range: OP 0xC; Z 1 and DATA one bit too long under OP 0xB; CH 1 under
OP 0x1; select 13; selects 11 and 12 with CH 1; and a legal word. -/
theorem witness_DecodeChecksInOrder :
    0xC ≤ opNumber 0xC000000000 ∧
    (opNumber 0xB100000000 < 0xC ∧ zNumber 0xB100000000 ≠ 0) ∧
    (opNumber 0xB000000010 < 0xC ∧ MbzSet (opNumber 0xB000000010) (dataNumber 0xB000000010)) ∧
    (opNumber 0x1400000000 ≤ 0x1 ∧ zNumber 0x1400000000 = 0 ∧
      ¬MbzSet (opNumber 0x1400000000) (dataNumber 0x1400000000) ∧ chNumber 0x1400000000 ≠ 0) ∧
    (opNumber 0xB00000000D = 0xB ∧ zNumber 0xB00000000D = 0 ∧
      ¬MbzSet (opNumber 0xB00000000D) (dataNumber 0xB00000000D) ∧ 13 ≤ selNumber 0xB00000000D) ∧
    (opNumber 0xB40000000B = 0xB ∧ zNumber 0xB40000000B = 0 ∧
      ¬MbzSet (opNumber 0xB40000000B) (dataNumber 0xB40000000B) ∧ selNumber 0xB40000000B = 11 ∧
      chNumber 0xB40000000B ≠ 0) ∧
    (opNumber 0xB40000000C = 0xB ∧ zNumber 0xB40000000C = 0 ∧
      ¬MbzSet (opNumber 0xB40000000C) (dataNumber 0xB40000000C) ∧ selNumber 0xB40000000C = 12 ∧
      chNumber 0xB40000000C ≠ 0) ∧
    ¬IllegalWord 0x6C000000F7 := by
  and_intros <;> decide

/-- The words of the checks above, with no fault before and with one. -/
theorem witness_IllegalCommandRecordsItsCode :
    (State.reset.fault = 0 ∧ IllegalWord 0xC000000000 ∧ 0xC ≤ opNumber 0xC000000000) ∧
    (IllegalWord 0xB100000000 ∧ opNumber 0xB100000000 < 0xC ∧ zNumber 0xB100000000 ≠ 0) ∧
    (IllegalWord 0x1400000000 ∧ zNumber 0x1400000000 = 0 ∧ chNumber 0x1400000000 ≠ 0 ∧ opNumber 0x1400000000 ≤ 0x1) ∧
    (IllegalWord 0xB00000000D ∧ opNumber 0xB00000000D = 0xB ∧ 13 ≤ selNumber 0xB00000000D) ∧
    { State.reset with fault := 2 }.fault ≠ 0 := by
  and_intros <;> decide

theorem witness_HostBytesAreLittleEndian :
    (bytesOfWord 0x24000000E8)[4]? = some 0x24 ∧ (bytesOfSample 0xFBE2)[1]? = some 0xFB := by decide

theorem witness_AssembledCommandsAreWellFormed :
    parseLine "WAVE c1, 0xF7".toList = some [.wave .c1 0xF7] ∧ Instr.wave .c1 0xF7 ∈ [Instr.wave .c1 0xF7] := by decide

/-- Both ends of every range, and the first values outside it. -/
theorem witness_AssemblerFitsOperandsOrRefuses :
    (asmPitch .c0 (-32768)).isSome ∧ (asmPitch .c0 32767).isSome ∧ asmPitch .c0 (-32769) = none ∧
    asmPitch .c0 32768 = none ∧ (asmFreq .c0 0).isSome ∧ (asmFreq .c0 0xFFFFFFF).isSome ∧ asmFreq .c0 (-1) = none ∧
    asmFreq .c0 0x10000000 = none ∧ (asmPwset .c0 0xFFFFFFF).isSome ∧ asmPwset .c0 0x10000000 = none ∧
    asmPwadd .c0 (-0x8000000) = some (.pwadd .c0 0x8000000) ∧ asmPwadd .c0 (-1) = some (.pwadd .c0 0xFFFFFFF) ∧
    asmPwadd .c0 (-0x8000001) = none ∧ (asmWave .c0 0xF7).isSome ∧ asmWave .c0 0x100 = none ∧ asmWave .c0 8 = none ∧
    (asmGate .c0 1).isSome ∧ asmActive .c0 2 = none ∧ asmNibble 15 = some 15 ∧ asmNibble 16 = none ∧
    asmAdsr .c0 15 0 15 0 = some (.adsr .c0 15 0 15 0) ∧ asmAdsr .c0 0 0 0 16 = none ∧ asmAdsr .c0 (-1) 0 0 0 = none ∧
    asmAdsrPacked .c0 0xFFFF = some (.adsr .c0 15 15 15 15) ∧ asmAdsrPacked .c0 0x10000 = none ∧
    asmAdsrPacked .c0 (-1) = none := by decide

/-- A channel with a name, no channel, an unknown name, and the two global names. -/
theorem witness_AssemblerReadsByName :
    parseChan "c3".toList = some .c3 ∧ parseChan "c4".toList = none ∧
    (∀ name ∈ ["PHASE", "FREQ", "PW", "LFSR", "LEVEL", "ENVST", "WAVE", "GATE", "ADSR", "ACTIVE", "WAVEOUT"],
      "OUT".toList ≠ name.toList) ∧ "PHASE".toList ≠ "OUT".toList ∧ "PHASE".toList ≠ "FAULT".toList := by decide

theorem witness_BindAndSilenceInAnyOrder :
    [Instr.envrel .c2, .gate .c2 1, .adsr .c2 1 2 3 4].Perm (bindWith .c2 (.adsr .c2 1 2 3 4)) ∧
    [Instr.envrel .c2, .gate .c2 0].Perm (silence .c2) := by decide

theorem witness_StepRunsTheDecodedCommand :
    (sent 0x7C00000001).input = .command 0x7C00000001 :: [] ∧ decode 0x7C00000001 = .ok (.gate .c3 1) ∧
    (Instr.gate .c3 1).WellFormed ∧ (sent 0x7C00000001).input = .command (encode (.gate .c3 1)) :: [] := by decide

theorem witness_ResetInputSetsEveryRegister : (State.reset.issue [.reset]).input = .reset :: [] := by decide

theorem witness_WaitingKeepsEveryRegister : (envAt .attack 5 0).input = [] := by decide

theorem witness_RunsDoNotDependOnGrouping : (envAt .attack 5 0).input = [] := by decide

/-- A state with the invariant and a command waiting, and the state its step answers. -/
theorem witness_StepKeepsTheInvariant :
    (sent 0x1000000000).Inv ∧ step (sent 0x1000000000) = .next (sampleStep State.reset) := by
  refine ⟨⟨default_lawful, fun c => ?_, by decide⟩, rfl⟩
  cases c <;> exact ⟨by decide, by decide⟩

theorem witness_ResetHasTheInvariant : Config.default.Lawful := default_lawful

theorem witness_FaultIsStickyUntilReset :
    (step { sent 0xC000000000 with fault := 4 } = .next { State.reset with fault := 4 } ∧
      { sent 0xC000000000 with fault := 4 }.input.head? ≠ some .reset ∧ { sent 0xC000000000 with fault := 4 }.fault ≠ 0) ∧
    (step (State.reset.issue [.reset]) = .next State.reset ∧ (State.reset.issue [.reset]).input.head? = some .reset) := by
  refine ⟨⟨rfl, by decide, by decide⟩, rfl, by decide⟩

theorem witness_OnlyPitchFaultsAfterDecoding :
    (Instr.pitch .c0 552).WellFormed ∧
    after (.pitch .c0 552) State.reset (fun t => t.fault ≠ State.reset.fault) = true := by decide +kernel

/-- NOP meets the hypothesis of every clause but that of a READ's, which READ.OUT does not. -/
theorem witness_EachRegisterHasItsWriters :
    exec .nop State.reset = .next State.reset ∧ Instr.nop ≠ .sample ∧ (∀ c q, Instr.nop ≠ .pitch c q) ∧
    (∀ c f, Instr.nop ≠ .freq c f) ∧ (∀ c v, Instr.nop ≠ .pwset c v) ∧ (∀ c v, Instr.nop ≠ .pwadd c v) ∧
    (∀ c, Instr.nop ≠ .envrel c) ∧ (∀ c f, Instr.nop ≠ .wave c f) ∧ (∀ c b, Instr.nop ≠ .gate c b) ∧
    (∀ c a d su r, Instr.nop ≠ .adsr c a d su r) ∧ (∀ c b, Instr.nop ≠ .active c b) ∧ isRead .nop = false ∧
    isRead .readOut = true := by
  refine ⟨rfl, ?_, ?_, ?_, ?_, ?_, ?_, ?_, ?_, ?_, ?_, rfl, rfl⟩ <;> intros <;> simp

theorem witness_IdempotentCommands :
    Instr.readFault ≠ .sample ∧ ∀ c v, Instr.readFault ≠ .pwadd c v := by
  refine ⟨?_, ?_⟩ <;> intros <;> simp

theorem witness_NopChangesNothing :
    (opNumber 0x0400000000 = 0x0 ∧ chNumber 0x0400000000 ≠ 0) ∧ (opNumber 0x0300000000 = 0x0 ∧ zNumber 0x0300000000 ≠ 0) ∧
    (opNumber 0x0080000000 = 0x0 ∧ dataNumber 0x0080000000 ≠ 0) := by decide

theorem witness_PitchToFreqIsTheExactFloor : Config.default.Lawful := default_lawful

/-- R103 at 44100, with two pitches in order. -/
theorem witness_ConverterLaws :
    Config.default.Lawful ∧ Config.default.sampleRate = 44100 ∧ (-793 : Int) ≤ -792 := ⟨default_lawful, by decide, by decide⟩

theorem witness_PitchLoadsTheIncrement : pitchToFreq State.reset.cfg (551#16).toInt < 2 ^ 28 := by decide +kernel

theorem witness_PitchOutOfRangeSaturates :
    2 ^ 28 ≤ pitchToFreq State.reset.cfg (552#16).toInt ∧ State.reset.fault = 0 ∧
    { State.reset with fault := 1 }.fault ≠ 0 := by decide +kernel

theorem witness_LegalPitchRange : Config.default.Lawful ∧ Config.default.sampleRate = 44100 := ⟨default_lawful, rfl⟩

theorem witness_WaveLoadsTheFlags :
    (0xF7#8).getLsbD 3 = false ∧ (0x08#8).getLsbD 3 = true ∧ State.reset.fault = 0 ∧
    { State.reset with fault := 1 }.fault ≠ 0 := by decide

/-- Both clauses, on the two sides of the clamp. -/
theorem witness_EnvrelRetriggersAnOpenGate :
    (GateIsOn ((envAt .sustain 0xFD18F5 0).chan .c0) ∧ 0xFD18F5 + attackOf Config.default (State.reset.chan .c0) < 0xFFFFFF) ∧
    (GateIsOn ((envAt .sustain 0xFD18F6 0).chan .c0) ∧
      0xFFFFFF ≤ 0xFD18F6 + attackOf Config.default (State.reset.chan .c0)) := by decide

/-- Every clause, DECAY at and above the new sustain level, SUSTAIN at it and away from it. -/
theorem witness_NewAdsrActsAtTheNextSample :
    ¬GateIsOn (State.reset.chan .c0) ∧ GateIsOn ((envAt .attack 1 0).chan .c0) ∧
    ((envAt .attack 1 0).chan .c0).envst = .attack ∧ ((envAt .decay 0x888888 0).chan .c0).envst = .decay ∧
    ((envAt .decay 0x888888 0).chan .c0).level.toNat ≤ (8#4).toNat * 0x111111 ∧
    ((envAt .sustain 0x888888 0).chan .c0).envst = .sustain ∧
    (8#4).toNat * 0x111111 = ((envAt .sustain 0x888888 0).chan .c0).level.toNat ∧
    (9#4).toNat * 0x111111 ≠ ((envAt .sustain 0x888888 0).chan .c0).level.toNat := by decide

theorem witness_GateOffForOneSampleRetriggers :
    ((envAt .sustain 0x888888 0x0080).chan .c0).wave.getLsbD 0 = true := by decide

/-- Flags that open and flags that close, a gate that is 1 with WAVE bit 0 set, and one that was 0 in each state. -/
theorem witness_TheGateActsAtTheNextSample :
    (0xF7#8).getLsbD 3 = false ∧ (0xF7#8).getLsbD 0 = true ∧ (0x20#8).getLsbD 3 = false ∧ (0x20#8).getLsbD 0 = false ∧
    ((envAt .release 0 0).chan .c0).gate = 1 ∧ ((envAt .release 0 0).chan .c0).envst = .release ∧
    ((envAt .release 0 0).chan .c0).wave.getLsbD 0 = true ∧
    (∀ st ∈ [EnvState.attack, .decay, .sustain],
      ((chanWith .c0 fun r => { r with envst := st, wave := 0x01 }).chan .c0).gate = 0 ∧
      ((chanWith .c0 fun r => { r with envst := st, wave := 0x01 }).chan .c0).envst = st ∧
      ((chanWith .c0 fun r => { r with envst := st, wave := 0x01 }).chan .c0).wave.getLsbD 0 = true) := by decide

/-- Every state of the envelope, and both sides of each clamp. -/
theorem witness_SampleStepsEveryEnvelope :
    ¬GateIsOn (State.reset.chan .c1) ∧ GateIsOn ((envAt .release 0xFD18F5 0).chan .c0) ∧
    ((envAt .release 0xFD18F5 0).chan .c0).envst = .release ∧
    0xFD18F5 + attackOf Config.default ((envAt .release 0xFD18F5 0).chan .c0) < 0xFFFFFF ∧
    0xFFFFFF ≤ 0xFD18F6 + attackOf Config.default ((envAt .attack 0xFD18F6 0).chan .c0) ∧
    ((63405 : Int) - decayOf Config.default ((envAt .decay 63405 0).chan .c0) ≤
      sustainOf ((envAt .decay 63405 0).chan .c0)) ∧
    (sustainOf ((envAt .decay 63406 0).chan .c0) : Int) < 63406 - decayOf Config.default ((envAt .decay 63406 0).chan .c0) ∧
    ((envAt .sustain 0x111111 0x0010).chan .c0).level.toNat = sustainOf ((envAt .sustain 0x111111 0x0010).chan .c0) ∧
    ((envAt .sustain 0x111110 0x0010).chan .c0).level.toNat ≠ sustainOf ((envAt .sustain 0x111110 0x0010).chan .c0) := by
  decide

/-- Channels 2 and 1 before a sample in which channel 1 wraps to phase 1 and syncs channel 2; channel 3, with SYNC, is
synced by channel 2. -/
def syncing : State :=
  ((chanWith .c1 fun r => { r with phase := 0xFFFFFFF, freq := 2 }).setChan .c2
    { State.reset.chan .c2 with phase := 7, freq := 9, wave := 0x02 }).setChan .c3
    { State.reset.chan .c3 with phase := 7, freq := 9, wave := 0x02 }

theorem witness_SampleStepsEveryPhase :
    SyncedBy (seenPred syncing (sampleStep syncing) .c2) (syncing.chan .c2) ∧
    ¬SyncedBy (seenPred syncing (sampleStep syncing) .c1) (syncing.chan .c1) := by decide

/-- Each clause: a predecessor of FREQ 0, a sync of a positive and of a zero FREQ, a chain, and no sync with and
without a wrap. -/
theorem witness_HardSyncCornerCases :
    (seenPred syncing (sampleStep syncing) .c1).freq = 0 ∧
    (SyncedBy (seenPred syncing (sampleStep syncing) .c2) (syncing.chan .c2) ∧ 0 < (syncing.chan .c2).freq.toNat ∧
      pred .c3 = .c2 ∧ Chan.c3 ≠ .c0 ∧ (syncing.chan .c3).wave.getLsbD 1 = true) ∧
    (SyncedBy (seenPred syncing (sampleStep syncing) .c2) { syncing.chan .c2 with freq := 0 }) ∧
    (¬SyncedBy (seenPred syncing (sampleStep syncing) .c1) (syncing.chan .c1) ∧
      2 ^ 28 ≤ (syncing.chan .c1).phase.toNat + (syncing.chan .c1).freq.toNat) := by decide

/-- Channel 1 of that sample changes its top five bits; channel 2 does not. -/
theorem witness_SampleClocksEveryNoiseRegister :
    ((sampleStep syncing).chan .c1).phase.toNat / 2 ^ 23 ≠ (syncing.chan .c1).phase.toNat / 2 ^ 23 ∧
    ((sampleStep syncing).chan .c2).phase.toNat / 2 ^ 23 = (syncing.chan .c2).phase.toNat / 2 ^ 23 := by decide

/-- The three flag settings, at the phases each clause names (FREQ 0, so the phase is kept). -/
theorem witness_WaveformShapes :
    ((waveAt 0x7F80000 0x10 0).chan .c0).wave.toNat / 16 = 1 ∧ ((waveAt 0x7F80000 0x10 0).chan .c0).wave.getLsbD 2 = false ∧
    ((sampleStep (waveAt 0x7F80000 0x10 0)).chan .c0).phase.toNat = 2 ^ 27 - 2 ^ 19 ∧
    ((sampleStep (waveAt 0x807FFFF 0x10 0)).chan .c0).phase.toNat = 2 ^ 27 + 2 ^ 19 - 1 ∧
    ((sampleStep (waveAt 0xFF80000 0x10 0)).chan .c0).phase.toNat = 2 ^ 28 - 2 ^ 19 ∧
    ((sampleStep (waveAt 0 0x10 0)).chan .c0).phase = 0 ∧
    ((waveAt 0xFF00000 0x20 0).chan .c0).wave.toNat / 16 = 2 ∧
    ((sampleStep (waveAt 0xFF00000 0x20 0)).chan .c0).phase.toNat = 2 ^ 28 - 2 ^ 20 ∧
    ((waveAt 0x8000000 0x50 0).chan .c0).wave.toNat / 16 = 5 ∧
    ((waveAt 0x8000000 0x50 0).chan .c0).wave.getLsbD 2 = false ∧
    ((sampleStep (waveAt 0x8000000 0x50 0)).chan .c0).phase.toNat = 2 ^ 27 := by decide

/-- V-S3's attack: from level 0 in RELEASE the clamp is sample 89, and k may be 1 to 88. -/
theorem witness_AttackReachesTheTopOnTime :
    (envAt .release 0 0x0080).cfg.Lawful ∧ GateIsOn ((envAt .release 0 0x0080).chan .c0) ∧
    ((envAt .release 0 0x0080).chan .c0).envst = .release ∧ ((envAt .release 0 0x0080).chan .c0).level.toNat < 0xFFFFFF ∧
    89 = (0xFFFFFF - ((envAt .release 0 0x0080).chan .c0).level.toNat +
      attackOf (envAt .release 0 0x0080).cfg ((envAt .release 0 0x0080).chan .c0) - 1) /
      attackOf (envAt .release 0 0x0080).cfg ((envAt .release 0 0x0080).chan .c0) ∧ 1 ≤ 88 ∧ 88 < 89 :=
  ⟨default_lawful, by decide, by decide, by decide, by decide, by decide, by decide⟩

/-- V-S3's release of 142 samples. -/
theorem witness_ReleaseFallsToZeroAndStays :
    State.reset.cfg.Lawful ∧ ¬GateIsOn (State.reset.chan .c0) ∧ 1 ≤ 142 := ⟨default_lawful, by decide, by decide⟩

theorem witness_SustainHolds :
    GateIsOn ((envAt .sustain 0x888888 0x0080).chan .c0) ∧ ((envAt .sustain 0x888888 0x0080).chan .c0).envst = .sustain ∧
    ((envAt .sustain 0x888888 0x0080).chan .c0).level.toNat = sustainOf ((envAt .sustain 0x888888 0x0080).chan .c0) := by
  decide

theorem witness_EnvelopeLaws :
    GateIsOn ((envAt .decay 0xFFFFFF 0x00F0).chan .c0) ∧ ((envAt .decay 0xFFFFFF 0x00F0).chan .c0).envst = .decay ∧
    ((envAt .decay 0xFFFFFF 0x00F0).chan .c0).adsr.toNat / 2 ^ 4 % 16 = 15 := by decide

theorem witness_NoiseStepIsABijection : (21 : Nat) ≤ 21 := by decide

theorem witness_NoisePeriodIsMaximal : (0x000001#23) ≠ 0 ∧ (0x7FFFFF#23) ≠ 0 := by decide

/-- A channel of FREQ 0 with NOISE alone. -/
theorem witness_NoiseFreezesWithThePhase :
    ((waveAt 5 0x80 0).chan .c0).freq = 0 ∧ ((waveAt 5 0x80 0).chan .c0).wave.getLsbD 1 = false ∧
    ((waveAt 5 0x80 0).chan .c0).wave.getLsbD 4 = false ∧ ((waveAt 5 0x80 0).chan .c0).wave.getLsbD 5 = false ∧
    ((waveAt 5 0x80 0).chan .c0).wave.getLsbD 6 = false ∧
    ((sampleStep (sampleStep (waveAt 5 0x80 0))).chan .c0).phase.toNat / 2 ^ 23 =
      ((sampleStep (waveAt 5 0x80 0)).chan .c0).phase.toNat / 2 ^ 23 := by decide

theorem witness_MuteIsolation : (0#1) = 0 ∧ Chan.c1 ≠ .c0 := by decide

theorem witness_MixerLaws :
    Config.default.mixShift = 16 ∧ (State.reset.chan .c0).level = 0 ∧ (State.reset.chan .c0).active = 1 ∧
    { State.reset.chan .c0 with waveout := 0x7F, level := 65536 }.level.toNat ≤ 2 ^ Config.default.mixShift ∧
    (∀ d, d ≠ .c0 → ((((State.reset.setChan .c1 { loud 0 0 with active := 0 }).setChan .c2
      { loud 0 0 with active := 0 }).setChan .c3 { loud 0 0 with active := 0 }).chan d).active = 0) := by
  refine ⟨by decide, by decide, by decide, by decide, fun d => ?_⟩
  cases d <;> decide

/-- The reset state is silent, and a SAMPLE of it leaves every gate off. -/
theorem witness_SilenceLastsUntilAGateOpens :
    State.reset.Silent ∧ exec .sample State.reset = .next (sampleStep State.reset) ∧
    ∀ c, ¬GateIsOn ((sampleStep State.reset).chan c) := by
  refine ⟨fun c => ?_, rfl, fun c => ?_⟩ <;> cases c <;> decide

/-- Channel 2 with SYNC, in two states that differ in channel 0 but not in what channel 2 sees of channel 1. -/
theorem witness_ChannelsCoupleOnlyThroughThePredecessor :
    syncing.cfg = (syncing.setChan .c0 (loud 0 0)).cfg ∧
    syncing.chan .c2 = (syncing.setChan .c0 (loud 0 0)).chan .c2 ∧ (syncing.chan .c2).wave.getLsbD 1 = true ∧
    (seenPred syncing (sampleStep syncing) .c2).phase =
      (seenPred (syncing.setChan .c0 (loud 0 0)) (sampleStep (syncing.setChan .c0 (loud 0 0))) .c2).phase ∧
    (seenPred syncing (sampleStep syncing) .c2).freq =
      (seenPred (syncing.setChan .c0 (loud 0 0)) (sampleStep (syncing.setChan .c0 (loud 0 0))) .c2).freq := by decide

end Sys2Proof.Tests
end

/-! PROOFS. The state family (10_state.md): the reset state, what every command and every step keep, and the writers of
each register. One inversion of a command for a single channel (`ChannelEffect`) serves the invariant and the writers;
one statement of what can happen to FAULT (`FaultKeptOrRecorded`) serves the invariant and stickiness. -/
namespace Sys2Proof.Machine

/-! ### The noise register never reaches zero (10_state.md R26) -/

/-- The clock shifts every bit but the top one, and that one is fed back against bit 17, which is itself shifted: a zero
result leaves no bit that could have been set. -/
theorem eq_zero_of_lfsrNext_eq_zero {v : BitVec 23} (h : lfsrNext v = 0) : v = 0 := by
  have shifted : ∀ i, i < 22 → v.getLsbD i = false := by
    intro i hi
    have hb := lfsrNext_getLsbD v (i + 1)
    simpa [h, show i + 1 < 23 by omega] using hb.symm
  have fedBack : v.getLsbD 22 = false := by
    have hb := lfsrNext_getLsbD v 0
    rw [h, if_pos rfl, shifted 17 (by omega)] at hb
    simpa using hb.symm
  refine BitVec.eq_of_getLsbD_eq fun i hi => ?_
  rcases Nat.lt_or_eq_of_le (Nat.le_of_lt_succ hi) with hlt | rfl
  · simpa using shifted i hlt
  · simpa using fedBack

theorem nextLfsr_ne_zero {r : ChannelRegs} (p : ChannelRegs) (h : r.lfsr ≠ 0) : nextLfsr p r ≠ 0 := by
  unfold nextLfsr
  split
  · exact mt eq_zero_of_lfsrNext_eq_zero h
  · exact h

/-! ### A command seen from one channel -/

/-- Every way command `i` can change the registers `r` of channel `c`: they stay, SAMPLE steps them with some
predecessor `p`, or a command of that very channel writes its one register. -/
inductive ChannelEffect (cfg : Config) (c : Chan) (r : ChannelRegs) : Instr → ChannelRegs → Prop
  | kept (i : Instr) : ChannelEffect cfg c r i r
  | sample (p : ChannelRegs) : ChannelEffect cfg c r .sample (stepChannelRegs cfg p r)
  | pitch (q : BitVec 16) (f : BitVec 28) : ChannelEffect cfg c r (.pitch c q) { r with freq := f }
  | freq (f : BitVec 28) : ChannelEffect cfg c r (.freq c f) { r with freq := f }
  | pwset (v : BitVec 28) : ChannelEffect cfg c r (.pwset c v) { r with pw := v }
  | pwadd (v : BitVec 28) : ChannelEffect cfg c r (.pwadd c v) { r with pw := r.pw + v }
  | wave (flags : BitVec 8) : ChannelEffect cfg c r (.wave c flags) (writeWaveReg r flags)
  | gate (b : BitVec 1) : ChannelEffect cfg c r (.gate c b) { r with gate := b }
  | adsr (a d su rl : BitVec 4) :
      ChannelEffect cfg c r (.adsr c a d su rl) { r with adsr := packAdsr a d su rl }
  | envrel : ChannelEffect cfg c r (.envrel c) { r with envst := .release }
  | active (b : BitVec 1) : ChannelEffect cfg c r (.active c b) { r with active := b }

/-- A write to channel `c` is an effect on `c` and leaves every other channel. -/
theorem ChannelEffect.setChan {s : State} {i : Instr} {c : Chan} {r : ChannelRegs}
    (h : ChannelEffect s.cfg c (s.chan c) i r) (d : Chan) :
    ChannelEffect s.cfg d (s.chan d) i ((s.setChan c r).chan d) := by
  rw [State.chan_setChan]
  split
  · next hd => subst hd; exact h
  · exact .kept i

theorem Effect.channel {s t : State} {i : Instr} (h : Effect s i t) (d : Chan) :
    ChannelEffect s.cfg d (s.chan d) i (t.chan d) := by
  cases h with
  | nop => exact .kept _
  | sample => rw [sampleStep_chan]; exact .sample _
  | pitchFits c q _ => exact ChannelEffect.setChan (.pitch q _) d
  | pitchSaturates c q _ => rw [raiseFault_chan]; exact ChannelEffect.setChan (.pitch q _) d
  | freq c f => exact ChannelEffect.setChan (.freq f) d
  | pwset c v => exact ChannelEffect.setChan (.pwset v) d
  | pwadd c v => exact ChannelEffect.setChan (.pwadd v) d
  | wave c flags _ => exact ChannelEffect.setChan (.wave flags) d
  | waveRejected c flags _ => rw [raiseFault_chan]; exact .kept _
  | gate c b => exact ChannelEffect.setChan (.gate b) d
  | adsr c a dc su rl => exact ChannelEffect.setChan (.adsr a dc su rl) d
  | envrel c => exact ChannelEffect.setChan .envrel d
  | active c b => exact ChannelEffect.setChan (.active b) d
  | read _ v _ => exact .kept _

/-! ### The writers of each channel register (10_state.md R20) -/

section
variable {cfg : Config} {c : Chan} {r q : ChannelRegs} {i : Instr}

/-- PHASE, LFSR, LEVEL and WAVEOUT are SAMPLE's alone. -/
theorem ChannelEffect.sampleRegs_eq (h : ChannelEffect cfg c r i q) (hs : i ≠ .sample) :
    q.phase = r.phase ∧ q.lfsr = r.lfsr ∧ q.level = r.level ∧ q.waveout = r.waveout := by
  cases h
  case sample => exact absurd rfl hs
  all_goals exact ⟨rfl, rfl, rfl, rfl⟩

theorem ChannelEffect.freq_eq (h : ChannelEffect cfg c r i q) (hp : ∀ v, i ≠ .pitch c v)
    (hf : ∀ f, i ≠ .freq c f) : q.freq = r.freq := by
  cases h
  case sample p => exact stepChannelRegs_freq cfg p r
  case pitch v f => exact absurd rfl (hp v)
  case freq f => exact absurd rfl (hf f)
  all_goals rfl

theorem ChannelEffect.pw_eq (h : ChannelEffect cfg c r i q) (hs : ∀ v, i ≠ .pwset c v)
    (ha : ∀ v, i ≠ .pwadd c v) : q.pw = r.pw := by
  cases h
  case sample p => exact stepChannelRegs_pw cfg p r
  case pwset v => exact absurd rfl (hs v)
  case pwadd v => exact absurd rfl (ha v)
  all_goals rfl

theorem ChannelEffect.envst_eq (h : ChannelEffect cfg c r i q) (hs : i ≠ .sample) (he : i ≠ .envrel c) :
    q.envst = r.envst := by
  cases h
  case sample => exact absurd rfl hs
  case envrel => exact absurd rfl he
  all_goals rfl

theorem ChannelEffect.wave_eq (h : ChannelEffect cfg c r i q) (hw : ∀ flags, i ≠ .wave c flags) :
    q.wave = r.wave := by
  cases h
  case sample p => exact stepChannelRegs_wave cfg p r
  case wave flags => exact absurd rfl (hw flags)
  all_goals rfl

theorem ChannelEffect.gate_eq (h : ChannelEffect cfg c r i q) (hg : ∀ b, i ≠ .gate c b) : q.gate = r.gate := by
  cases h
  case sample p => exact stepChannelRegs_gate cfg p r
  case gate b => exact absurd rfl (hg b)
  all_goals rfl

theorem ChannelEffect.adsr_eq (h : ChannelEffect cfg c r i q) (ha : ∀ a d su rl, i ≠ .adsr c a d su rl) :
    q.adsr = r.adsr := by
  cases h
  case sample p => exact stepChannelRegs_adsr cfg p r
  case adsr a d su rl => exact absurd rfl (ha a d su rl)
  all_goals rfl

theorem ChannelEffect.active_eq (h : ChannelEffect cfg c r i q) (ha : ∀ b, i ≠ .active c b) :
    q.active = r.active := by
  cases h
  case sample p => exact stepChannelRegs_active cfg p r
  case active b => exact absurd rfl (ha b)
  all_goals rfl

end

/-! ### The writers of the global registers and of the ports -/

section
variable {s t : State} {i : Instr}

theorem Effect.cfg_eq (h : Effect s i t) : t.cfg = s.cfg := by
  cases h <;> simp

theorem Effect.input_eq (h : Effect s i t) : t.input = s.input := by
  cases h <;> simp

theorem Effect.out_samples_eq (h : Effect s i t) (hs : i ≠ .sample) : t.out = s.out ∧ t.samples = s.samples := by
  cases h
  case sample => exact absurd rfl hs
  all_goals simp

theorem Effect.rdata_reads_eq (h : Effect s i t) (hr : isRead i = false) :
    t.rdata = s.rdata ∧ t.reads = s.reads := by
  cases h
  case read v hi => simp [hr] at hi
  all_goals simp

/-- The ports only grow (44_host.md R174). -/
theorem Effect.samples_grow (h : Effect s i t) : s.samples <+: t.samples := by
  cases h <;> simp

theorem Effect.reads_grow (h : Effect s i t) : s.reads <+: t.reads := by
  cases h <;> simp

end

/-- Settles O21: a command's effect on each channel (`ChannelEffect`) and on what all channels share. -/
theorem eachRegisterHasItsWriters : Obligations.EachRegisterHasItsWriters := by
  unfold Obligations.EachRegisterHasItsWriters
  intro i s t h
  have e : Effect s i t := effect_of_exec h
  refine ⟨fun hs => ?_, fun c => (e.channel c).freq_eq, fun c => (e.channel c).pw_eq,
    fun c => (e.channel c).envst_eq, fun c => (e.channel c).wave_eq, fun c => (e.channel c).gate_eq,
    fun c => (e.channel c).adsr_eq, fun c => (e.channel c).active_eq, e.rdata_reads_eq, e.cfg_eq, e.input_eq⟩
  obtain ⟨hout, hsamples⟩ := e.out_samples_eq hs
  exact ⟨hout, hsamples, fun c => (e.channel c).sampleRegs_eq hs⟩

/-! ### FAULT (10_state.md R37, 60_exceptions.md R191) -/

/-- All that can happen to FAULT without a reset: it stays, or it was 0 and takes a code. -/
def FaultKeptOrRecorded (s t : State) : Prop :=
  t.fault = s.fault ∨ (s.fault = 0 ∧ ∃ k, t.fault = faultNumber k)

theorem FaultKeptOrRecorded.raiseFault (k : FaultCode) (s : State) : FaultKeptOrRecorded s (raiseFault k s) := by
  by_cases h : s.fault = 0
  · exact .inr ⟨h, k, by rw [raiseFault_fault, if_pos h]⟩
  · exact .inl (by rw [raiseFault_fault, if_neg h])

theorem Effect.faultKeptOrRecorded {s t : State} {i : Instr} (h : Effect s i t) : FaultKeptOrRecorded s t := by
  cases h
  case pitchSaturates c q _ => exact .raiseFault .pitchRange (s.setChan c _)
  case waveRejected => exact .raiseFault .reservedField s
  case sample => exact .inl (sampleStep_fault s)
  all_goals exact .inl rfl

theorem FaultKeptOrRecorded.eq_of_ne_zero {s t : State} (h : FaultKeptOrRecorded s t) (hs : s.fault ≠ 0) :
    t.fault = s.fault := by
  rcases h with h | ⟨h0, _⟩
  · exact h
  · exact absurd h0 hs

theorem faultNumber_le (k : FaultCode) : (faultNumber k).toNat ≤ 4 := by
  cases k <;> decide

theorem FaultKeptOrRecorded.fault_le {s t : State} (h : FaultKeptOrRecorded s t) (hs : s.fault.toNat ≤ 4) :
    t.fault.toNat ≤ 4 := by
  rcases h with h | ⟨_, k, hk⟩
  · rwa [h]
  · rw [hk]; exact faultNumber_le k

/-- Settles O19: a step without a reset keeps FAULT or records a code over 0; a reset leaves 0. -/
theorem faultIsStickyUntilReset : Obligations.FaultIsStickyUntilReset := by
  unfold Obligations.FaultIsStickyUntilReset
  intro s t h
  rcases step_cases s with ⟨hi, hs⟩ | ⟨rest, hi, hs⟩ | ⟨w, rest, i, hi, -, hs⟩ | ⟨w, rest, k, hi, -, hs⟩ <;>
    obtain rfl := Host.Outcome.next.inj (hs.symm.trans h)
  · exact ⟨fun _ _ => rfl, fun hr => by simp [hi] at hr⟩
  · exact ⟨fun hn => absurd (by rw [hi]; rfl) hn, fun _ => rfl⟩
  · exact ⟨fun _ => (effect_afterExec i (dropInput s)).faultKeptOrRecorded.eq_of_ne_zero,
      fun hr => by simp [hi] at hr⟩
  · exact ⟨fun _ => (FaultKeptOrRecorded.raiseFault k (dropInput s)).eq_of_ne_zero,
      fun hr => by simp [hi] at hr⟩

/-! ### Every input has a next state (10_state.md R21) -/

/-- Settles O12, along the four ways a step can go. -/
theorem everyStepAnswersANextState : Obligations.EveryStepAnswersANextState := by
  unfold Obligations.EveryStepAnswersANextState
  intro s
  rcases step_cases s with ⟨hi, hs⟩ | ⟨rest, -, hs⟩ | ⟨w, rest, i, -, -, hs⟩ | ⟨w, rest, k, -, -, hs⟩ <;>
    refine ⟨_, hs, ?_⟩
  · simp [hi]
  · simp
  · have e := effect_afterExec i (dropInput s)
    exact ⟨e.input_eq, e.cfg_eq, e.samples_grow, e.reads_grow⟩
  · simp

/-! ### The invariant of the reachable states (10_state.md R42) -/

theorem ChannelRegs.Inv.of_eq {r q : ChannelRegs} (h : r.Inv) (hl : q.lfsr = r.lfsr) (hw : q.wave = r.wave) :
    q.Inv := ⟨hl ▸ h.lfsr_ne_zero, hw ▸ h.wave_reserved⟩

theorem ChannelRegs.Inv.stepChannelRegs {r : ChannelRegs} (h : r.Inv) (cfg : Config) (p : ChannelRegs) :
    (stepChannelRegs cfg p r).Inv where
  lfsr_ne_zero := by rw [stepChannelRegs_lfsr]; exact nextLfsr_ne_zero p h.lfsr_ne_zero
  wave_reserved := by rw [stepChannelRegs_wave]; exact h.wave_reserved

/-- WAVE's bit 3 stays 0 whatever is loaded (10_state.md R33). -/
theorem ChannelRegs.Inv.writeWaveReg {r : ChannelRegs} (h : r.Inv) (flags : BitVec 8) :
    (writeWaveReg r flags).Inv where
  lfsr_ne_zero := h.lfsr_ne_zero
  wave_reserved := by simp [Machine.writeWaveReg, waveMask]

theorem ChannelEffect.inv {cfg : Config} {c : Chan} {r q : ChannelRegs} {i : Instr}
    (h : ChannelEffect cfg c r i q) (hr : r.Inv) : q.Inv := by
  cases h
  case sample p => exact hr.stepChannelRegs cfg p
  case wave flags => exact hr.writeWaveReg flags
  all_goals exact hr.of_eq rfl rfl

theorem Effect.inv {s t : State} {i : Instr} (h : Effect s i t) (hs : s.Inv) : t.Inv where
  lawful := h.cfg_eq ▸ hs.lawful
  channel c := (h.channel c).inv (hs.channel c)
  fault_le := h.faultKeptOrRecorded.fault_le hs.fault_le

theorem State.Inv.raiseFault {s : State} (h : s.Inv) (k : FaultCode) : (raiseFault k s).Inv where
  lawful := by rw [raiseFault_cfg]; exact h.lawful
  channel c := by rw [raiseFault_chan]; exact h.channel c
  fault_le := (FaultKeptOrRecorded.raiseFault k s).fault_le h.fault_le

theorem State.Inv.dropInput {s : State} (h : s.Inv) : (dropInput s).Inv := ⟨h.lawful, h.channel, h.fault_le⟩

/-- A channel starts from the seed of its parameters, which is lawful only where it is nonzero. -/
theorem ChannelRegs.reset_inv {cfg : Config} (h : cfg.Lawful) : (ChannelRegs.reset cfg).Inv :=
  ⟨h.seed_ne_zero, BitVec.getLsbD_zero⟩

theorem State.Inv.resetInput {s : State} (h : s.Inv) : (resetInput s).Inv where
  lawful := h.lawful
  channel c := by rw [resetInput_chan]; exact ChannelRegs.reset_inv h.lawful
  fault_le := Nat.zero_le 4

/-- Settles O17, along the four ways a step can go: waiting, a reset, a command, an illegal word. -/
theorem stepKeepsTheInvariant : Obligations.StepKeepsTheInvariant := by
  unfold Obligations.StepKeepsTheInvariant
  intro s t hinv h
  rcases step_cases s with ⟨-, hs⟩ | ⟨rest, -, hs⟩ | ⟨w, rest, i, -, -, hs⟩ | ⟨w, rest, k, -, -, hs⟩ <;>
    obtain rfl := Host.Outcome.next.inj (hs.symm.trans h)
  · exact hinv
  · exact hinv.dropInput.resetInput
  · exact (effect_afterExec i (dropInput s)).inv hinv.dropInput
  · exact hinv.dropInput.raiseFault k

/-! ### The reset state and the defaults (70_reset_and_hazards.md R210, 92_eei_decisions.md D6) -/

theorem State.resetWith_inv {cfg : Config} (h : cfg.Lawful) : (State.resetWith cfg).Inv where
  lawful := h
  channel c := by rw [resetWith_chan]; exact ChannelRegs.reset_inv h
  fault_le := Nat.zero_le 4

/-- The default parameters meet every law of 00_scope.md R7. -/
theorem default_lawful : Config.default.Lawful where
  sampleRate_pos := by decide
  mixShift_le := by decide
  attack_ne_zero := by decide
  release_ne_zero := by decide
  seed_ne_zero := by decide
  taps_distinct := by decide

/-- Settles O18: the one fact about the parameters that the reset state's invariant rests on is a nonzero seed. -/
theorem resetHasTheInvariant : Obligations.ResetHasTheInvariant := by
  unfold Obligations.ResetHasTheInvariant
  exact ⟨State.resetWith_inv default_lawful, fun _ => State.resetWith_inv⟩

theorem default_attackTable_eq (n : Fin 16) :
    (Config.default.attackTable.get n).toNat = Config.tableEntry 44100 (Config.attackTimesMs.get n) := by
  revert n; decide

theorem default_releaseTable_eq (n : Fin 16) :
    (Config.default.releaseTable.get n).toNat = Config.tableEntry 44100 (3 * Config.attackTimesMs.get n) := by
  revert n; decide

/-- Settles O14: the registers by `resetWith_chan`, the tables entry by entry from D6's formula. -/
theorem resetStateAndDefaults : Obligations.ResetStateAndDefaults := by
  unfold Obligations.ResetStateAndDefaults
  exact ⟨resetWith_chan Config.default, rfl, rfl, rfl, rfl, default_lawful, rfl, rfl, rfl,
    default_attackTable_eq, default_releaseTable_eq⟩

end Sys2Proof.Machine

/-! PROOFS. The memory family (20_memory.md): the bytes of a host's serialised words and samples (R52), commands issued
twice in a row (R54), and the one step that takes a command word off the input (R57). The last rests on the decoder
giving back what the encoder was given (`decode_encode`). -/
namespace Sys2Proof.Machine

/-! ### Serialised words and samples (20_memory.md R52) -/

/-- The `n` low bytes of `v`, least significant first: `bytesOfWord` and `bytesOfSample` for any width. -/
def lowBytes {m : Nat} (n : Nat) (v : BitVec m) : List Byte := (List.range n).map fun k => v.extractLsb' (8 * k) 8

theorem bytesOfWord_eq_lowBytes (w : Word) : bytesOfWord w = lowBytes 5 w := rfl

theorem bytesOfSample_eq_lowBytes (v : BitVec 16) : bytesOfSample v = lowBytes 2 v := rfl

theorem lowBytes_length {m : Nat} (n : Nat) (v : BitVec m) : (lowBytes n v).length = n := by
  simp [lowBytes]

theorem toNat_of_lowBytes_getElem? {m n k : Nat} {v : BitVec m} {b : Byte} (h : (lowBytes n v)[k]? = some b) :
    b.toNat = v.toNat / 2 ^ (8 * k) % 2 ^ 8 := by
  obtain ⟨-, rfl⟩ : k < n ∧ v.extractLsb' (8 * k) 8 = b := by
    simpa [lowBytes, List.getElem?_range, Option.map_eq_some_iff, List.getElem?_eq_some_iff] using h
  rw [BitVec.extractLsb'_toNat, Nat.shiftRight_eq_div_pow]

/-- Joining the five bytes of a word gives the word: each byte starts where the one below it ends. -/
theorem wordOfBytes_bytes (w : Word) :
    wordOfBytes (w.extractLsb' 0 8) (w.extractLsb' 8 8) (w.extractLsb' 16 8) (w.extractLsb' 24 8)
      (w.extractLsb' 32 8) = w := by
  have join (j k : Nat) {l n : Nat} (h : j = k + l) :
      w.extractLsb' j n ++ w.extractLsb' k l = w.extractLsb' k (n + l) :=
    BitVec.extractLsb'_append_extractLsb'_eq_extractLsb' h
  unfold wordOfBytes
  rw [join 32 24 rfl, join 24 16 rfl, join 16 8 rfl, join 8 0 rfl]
  exact BitVec.extractLsb'_eq_self

theorem decodeBytes_bytesOfWord (w : Word) (rest : List Byte) :
    decodeBytes (bytesOfWord w ++ rest) = some (decode w, rest) :=
  congrArg (fun v => some (decode v, rest)) (wordOfBytes_bytes w)

/-- Settles O7: a word and a sample are their low bytes (`lowBytes`), and the five bytes join to the word again. -/
theorem hostBytesAreLittleEndian : Obligations.HostBytesAreLittleEndian := by
  unfold Obligations.HostBytesAreLittleEndian
  refine ⟨decodeBytes_bytesOfWord, fun w => ?_, fun v => ?_⟩
  · rw [bytesOfWord_eq_lowBytes]
    exact ⟨lowBytes_length 5 w, fun _ _ => toNat_of_lowBytes_getElem?⟩
  · rw [bytesOfSample_eq_lowBytes]
    exact ⟨lowBytes_length 2 v, fun _ _ => toNat_of_lowBytes_getElem?⟩

/-! ### A command issued twice in a row (20_memory.md R54) -/

/-- A channel write that is idempotent on the channel's registers is idempotent on the state. -/
theorem State.setChan_twice {f : ChannelRegs → ChannelRegs} (hf : ∀ r, f (f r) = f r) (s : State) (c : Chan) :
    (s.setChan c (f (s.chan c))).setChan c (f ((s.setChan c (f (s.chan c))).chan c)) = s.setChan c (f (s.chan c)) := by
  rw [State.chan_setChan_same, hf, State.setChan_setChan]

theorem raiseFault_fault_ne_zero (k : FaultCode) (s : State) : (raiseFault k s).fault ≠ 0 := by
  rw [raiseFault_fault]
  split
  · cases k <;> decide
  · assumption

/-- FAULT keeps the first code (60_exceptions.md R191), so raising a fault again does nothing. -/
theorem raiseFault_twice (k : FaultCode) (s : State) : raiseFault k (raiseFault k s) = raiseFault k s :=
  if_neg (raiseFault_fault_ne_zero k s)

theorem setChan_raiseFault (k : FaultCode) (s : State) (c : Chan) (r : ChannelRegs) :
    (raiseFault k s).setChan c r = raiseFault k (s.setChan c r) := by
  unfold raiseFault
  rw [State.setChan_fault]
  split <;> rfl

/-- Loading an increment twice: the same FREQ both times, and the same fault where it does not fit. -/
theorem loadIncrement_twice (c : Chan) (n : Nat) (s : State) :
    loadIncrement c n (loadIncrement c n s) = loadIncrement c n s := by
  by_cases h : n ≤ 2 ^ 28 - 1
  · simp only [loadIncrement, setFreq, if_pos h]
    exact State.setChan_twice (f := fun r => { r with freq := BitVec.ofNat 28 n }) (fun _ => rfl) s c
  · simp only [loadIncrement, setFreq, if_neg h, setChan_raiseFault, raiseFault_twice, raiseFault_chan]
    exact congrArg _ (State.setChan_twice (f := fun r => { r with freq := maxFreq }) (fun _ => rfl) s c)

theorem afterExec_pitch (c : Chan) (q : BitVec 16) (s : State) :
    afterExec (.pitch c q) s = loadIncrement c (pitchToFreq s.cfg (pitchOperand q)) s := rfl

/-- WAVE by bit 3 of its flags: an illegal command or a load (10_state.md R33). -/
theorem afterExec_wave (c : Chan) (flags : BitVec 8) (s : State) :
    afterExec (.wave c flags) s =
      if flags.getLsbD 3 then raiseFault .reservedField s else s.setChan c (writeWaveReg (s.chan c) flags) := by
  simp only [afterExec, exec, execWave, rejectWord]
  by_cases h : flags.getLsbD 3 = true
  · rw [if_pos h, if_pos h]; rfl
  · rw [if_neg h, if_neg h]; rfl

theorem RegistersSame.of_eq {s t : State} (h : t = s) : RegistersSame s t := by
  subst h
  exact ⟨fun _ => rfl, rfl, rfl, rfl⟩

/-- A load finds its own value there, a fault finds FAULT taken, and a READ reads a register that is not RDATA. (The
read-data port is no register: it shows the value of a READ once more.) -/
theorem registersSame_afterExec_twice {i : Instr} (hs : i ≠ .sample) (hp : ∀ c v, i ≠ .pwadd c v) (s : State) :
    RegistersSame (afterExec i s) (afterExec i (afterExec i s)) := by
  cases i
  case sample => exact absurd rfl hs
  case pwadd c v => exact absurd rfl (hp c v)
  case nop => exact .of_eq rfl
  case pitch c q =>
    have hcfg : (afterExec (.pitch c q) s).cfg = s.cfg := (effect_afterExec (.pitch c q) s).cfg_eq
    apply RegistersSame.of_eq
    rw [afterExec_pitch c q (afterExec _ s), hcfg, afterExec_pitch, loadIncrement_twice]
  case wave c flags =>
    apply RegistersSame.of_eq
    simp only [afterExec_wave]
    split
    · exact raiseFault_twice _ s
    · exact State.setChan_twice (f := fun r => writeWaveReg r flags) (fun _ => rfl) s c
  case freq c v => exact .of_eq (State.setChan_twice (f := fun r => { r with freq := v }) (fun _ => rfl) s c)
  case pwset c v => exact .of_eq (State.setChan_twice (f := fun r => { r with pw := v }) (fun _ => rfl) s c)
  case gate c b => exact .of_eq (State.setChan_twice (f := fun r => { r with gate := b }) (fun _ => rfl) s c)
  case adsr c a d su rl =>
    exact .of_eq (State.setChan_twice (f := fun r => { r with adsr := packAdsr a d su rl }) (fun _ => rfl) s c)
  case envrel c => exact .of_eq (State.setChan_twice (f := fun r => { r with envst := .release }) (fun _ => rfl) s c)
  case active c b => exact .of_eq (State.setChan_twice (f := fun r => { r with active := b }) (fun _ => rfl) s c)
  -- The READs: what is read is no part of RDATA, so both times the same value is presented.
  all_goals exact ⟨fun _ => rfl, rfl, rfl, rfl⟩

/-- Settles O22: every command completes (`exec_eq`), and the second time changes no register
(`registersSame_afterExec_twice`). -/
theorem idempotentCommands : Obligations.IdempotentCommands := by
  unfold Obligations.IdempotentCommands
  intro i s hs hp
  exact ⟨_, _, exec_eq i s, exec_eq i (afterExec i s), registersSame_afterExec_twice hs hp s⟩

/-! ### Decoding an encoded command (30_encoding.md R74 to R78) -/

/-- A DATA field that passes every check of R78 for its opcode and channel decodes to its fields. -/
theorem decode_encodeFields {op : BitVec 4} {c : Chan} {d : BitVec 32} (hop : op.toNat < 0xC)
    (hmask : d &&& ~~~operandMask op = 0) (hchan : op = 0x0 ∨ op = 0x1 → c.bits = 0)
    (hsel : op = 0xB → (d.extractLsb' 0 4).toNat < 13)
    (hglobal : op = 0xB → (d.extractLsb' 0 4).toNat = 11 ∨ (d.extractLsb' 0 4).toNat = 12 → c.bits = 0) :
    decode (encodeFields op c d) = instrOfFields op c d := by
  simp only [decode, encodeFields, op_ofFields, chan_ofFields, zero_ofFields, data_ofFields, ofBits_bits]
  rw [if_neg (by omega), if_neg (by simp), if_neg (by simp [hmask]), if_neg fun h => h.2 (hchan h.1),
    if_neg fun h => absurd (hsel h.1) (by omega), if_neg fun h => h.2.2 (hglobal h.1 h.2.1)]

/-- DATA holding `v` alone passes a mask that covers the bits of `v`. -/
theorem setWidth_and_not_eq_zero {n : Nat} (v : BitVec n) {m : BitVec 32} (hm : ∀ i < n, m.getLsbD i = true) :
    v.setWidth 32 &&& ~~~m = 0 := by
  ext i hi
  by_cases h : i < n
  · have := hm i h
    simp_all
  · simp [BitVec.getLsbD_of_ge v i (by omega)]

/-- The flags of WAVE lie under its mask but for bit 3 (10_state.md R33). -/
theorem wave_and_not_operandMask {flags : BitVec 8} (h : flags.getLsbD 3 = false) :
    flags.setWidth 32 &&& ~~~operandMask 0x6 = 0 := by
  revert flags; decide

theorem extractLsb'_setWidth_self {n m : Nat} (v : BitVec n) (h : n ≤ m) : (v.setWidth m).extractLsb' 0 n = v := by
  rw [BitVec.extractLsb'_setWidth_of_le (by omega), BitVec.extractLsb'_eq_self]

/-- The commands that take a channel and are not READ: the operand mask is the only check left. -/
theorem decode_channelCommand {op : BitVec 4} (hop : 2 ≤ op.toNat ∧ op.toNat < 0xB) (c : Chan) {d : BitVec 32}
    (hmask : d &&& ~~~operandMask op = 0) : decode (encodeFields op c d) = instrOfFields op c d := by
  have hread : op ≠ 0xB := by rintro rfl; exact absurd hop (by decide)
  refine decode_encodeFields (by omega) hmask ?_ (absurd · hread) (absurd · hread)
  rintro (rfl | rfl) <;> exact absurd hop (by decide)

/-- A command `f` whose one operand is `n` bits of DATA from bit 0 up. -/
theorem decode_operandCommand {op : BitVec 4} (hop : 2 ≤ op.toNat ∧ op.toNat < 0xB) {n : Nat} (hn : n ≤ 32)
    (c : Chan) (f : BitVec n → Instr) (hf : ∀ d, instrOfFields op c d = .ok (f (d.extractLsb' 0 n))) {v : BitVec n}
    (hmask : v.setWidth 32 &&& ~~~operandMask op = 0) : decode (encodeFields op c (v.setWidth 32)) = .ok (f v) := by
  rw [decode_channelCommand hop c hmask, hf, extractLsb'_setWidth_self v hn]

/-- READ by its select: any channel with a channel register, channel field 0 with OUT and FAULT (20_memory.md R51). -/
theorem decode_read {c : Chan} {sel : BitVec 4} (h : sel.toNat < 11 ∨ (sel.toNat < 13 ∧ c = .c0)) :
    decode (encodeFields 0xB c (sel.setWidth 32)) = readOfSelect c sel := by
  have hfield : (sel.setWidth 32).extractLsb' 0 4 = sel := extractLsb'_setWidth_self sel (by decide)
  have hmask := setWidth_and_not_eq_zero sel (m := operandMask 0xB) (by decide)
  rw [decode_encodeFields (by decide) hmask (absurd · (by decide))]
  · exact congrArg (readOfSelect c) hfield
  · intro _; rw [hfield]; omega
  · rw [hfield]
    intro _ hg
    obtain ⟨-, rfl⟩ := h.resolve_left (by omega)
    rfl

/-- The four nibbles of ADSR, back from the register they are packed in (10_state.md R30). -/
theorem adsr_nibbles_packAdsr (a d su r : BitVec 4) :
    adsrA (packAdsr a d su r) = a ∧ adsrD (packAdsr a d su r) = d ∧ adsrS (packAdsr a d su r) = su ∧
      adsrR (packAdsr a d su r) = r := by
  have above {m n : Nat} (x : BitVec m) (y : BitVec n) (k : Nat) (h : n ≤ k) :
      (x ++ y).extractLsb' k 4 = x.extractLsb' (k - n) 4 := BitVec.extractLsb'_append_eq_of_le h
  refine ⟨?_, ?_, ?_, BitVec.extractLsb'_append_eq_right⟩
  · rw [packAdsr, adsrA, above _ r 12 (by decide), above _ su 8 (by decide), above a d 4 (by decide)]
    exact BitVec.extractLsb'_eq_self
  · rw [packAdsr, adsrD, above _ r 8 (by decide), above _ su 4 (by decide)]
    exact BitVec.extractLsb'_append_eq_right
  · rw [packAdsr, adsrS, above _ r 4 (by decide)]
    exact BitVec.extractLsb'_append_eq_right

/-- ADSR as a command of one 16-bit operand, the value its register takes (`adsrOfRegister_packAdsr`). -/
def adsrOfRegister (c : Chan) (v : BitVec 16) : Instr := .adsr c (adsrA v) (adsrD v) (adsrS v) (adsrR v)

theorem instrOfFields_adsr (c : Chan) (d : BitVec 32) :
    instrOfFields 0x8 c d = .ok (adsrOfRegister c (d.extractLsb' 0 16)) := by
  unfold adsrOfRegister adsrA adsrD adsrS adsrR
  simp only [BitVec.extractLsb'_extractLsb'_of_le, Nat.reduceAdd, Nat.reduceLeDiff]
  rfl

theorem adsrOfRegister_packAdsr (c : Chan) (a d su r : BitVec 4) :
    adsrOfRegister c (packAdsr a d su r) = .adsr c a d su r := by
  obtain ⟨ha, hd, hs, hr⟩ := adsr_nibbles_packAdsr a d su r
  rw [adsrOfRegister, ha, hd, hs, hr]

/-- Decoding gives back every command of the block (30_encoding.md R74 to R78): the fields that `encode` fills pass the
checks, and each operand is read where it was put. -/
theorem decode_encode {i : Instr} (h : i.WellFormed) : decode (encode i) = .ok i := by
  cases i
  case nop => rfl
  case sample => rfl
  case pitch c q =>
    exact decode_operandCommand (by decide) (by decide) c (.pitch c) (fun _ => rfl)
      (setWidth_and_not_eq_zero q (by decide))
  case freq c v =>
    exact decode_operandCommand (by decide) (by decide) c (.freq c) (fun _ => rfl)
      (setWidth_and_not_eq_zero v (by decide))
  case pwset c v =>
    exact decode_operandCommand (by decide) (by decide) c (.pwset c) (fun _ => rfl)
      (setWidth_and_not_eq_zero v (by decide))
  case pwadd c v =>
    exact decode_operandCommand (by decide) (by decide) c (.pwadd c) (fun _ => rfl)
      (setWidth_and_not_eq_zero v (by decide))
  case wave c flags =>
    have h3 : flags.getLsbD 3 = false := by simpa [Instr.WellFormed, Instr.wellFormed] using h
    exact decode_operandCommand (by decide) (by decide) c (.wave c) (fun _ => rfl) (wave_and_not_operandMask h3)
  case gate c b =>
    exact decode_operandCommand (by decide) (by decide) c (.gate c) (fun _ => rfl)
      (setWidth_and_not_eq_zero b (by decide))
  case adsr c a d su r =>
    have hmask := setWidth_and_not_eq_zero (packAdsr a d su r) (m := operandMask 0x8) (by decide)
    have hdec := decode_operandCommand (by decide) (by decide) c (adsrOfRegister c) (instrOfFields_adsr c) hmask
    rwa [adsrOfRegister_packAdsr] at hdec
  case envrel c => exact decode_channelCommand (by decide) c (by decide)
  case active c b =>
    exact decode_operandCommand (by decide) (by decide) c (.active c) (fun _ => rfl)
      (setWidth_and_not_eq_zero b (by decide))
  case readPhase c => exact decode_read (sel := 0) (.inl (by decide))
  case readFreq c => exact decode_read (sel := 1) (.inl (by decide))
  case readPw c => exact decode_read (sel := 2) (.inl (by decide))
  case readLfsr c => exact decode_read (sel := 3) (.inl (by decide))
  case readLevel c => exact decode_read (sel := 4) (.inl (by decide))
  case readEnvst c => exact decode_read (sel := 5) (.inl (by decide))
  case readWave c => exact decode_read (sel := 6) (.inl (by decide))
  case readGate c => exact decode_read (sel := 7) (.inl (by decide))
  case readAdsr c => exact decode_read (sel := 8) (.inl (by decide))
  case readActive c => exact decode_read (sel := 9) (.inl (by decide))
  case readWaveout c => exact decode_read (sel := 10) (.inl (by decide))
  case readOut => exact decode_read (sel := 11) (.inr ⟨by decide, rfl⟩)
  case readFault => exact decode_read (sel := 12) (.inr ⟨by decide, rfl⟩)

/-! ### A step takes a command word (20_memory.md R57) -/

theorem step_of_decode {s : State} {w : Word} {rest : List HostInput} {i : Instr} (hi : s.input = .command w :: rest)
    (hd : decode w = .ok i) : step s = exec i { s with input := rest } := by
  rw [step_command hi, dropInput_eq hi, acceptWord_ok hd]

/-- Settles O11: the step's inversion (`step_command`), with `decode_encode` for the word of a command. -/
theorem stepRunsTheDecodedCommand : Obligations.StepRunsTheDecodedCommand := by
  unfold Obligations.StepRunsTheDecodedCommand
  intro s rest i
  refine ⟨fun w hi => ?_, fun w => step_of_decode, fun hwf hi => step_of_decode hi (decode_encode hwf)⟩
  rw [step_command hi, dropInput_eq hi]

end Sys2Proof.Machine

/-! PROOFS. The encoding family (30_encoding.md), words: the decoder's checks as arithmetic on a word's fields
(`decode_eq_checks`), a legal word as the word of a command (`LegalFields.isCommandOf_decode`), and the rows of the
opcode table, each of legal words only and no two with a word in common. -/
namespace Sys2Proof.Machine

/-- Settles O1: `decode_encode`, constructor by constructor. -/
theorem decodeOfEncodeIsTheCommand : Obligations.DecodeOfEncodeIsTheCommand := by
  unfold Obligations.DecodeOfEncodeIsTheCommand
  exact fun _ => decode_encode

/-! ### The checks of R78 on the numbers of the fields -/

theorem op_cases {op : BitVec 4} (h : op.toNat < 0xC) :
    op = 0x0 ∨ op = 0x1 ∨ op = 0x2 ∨ op = 0x3 ∨ op = 0x4 ∨ op = 0x5 ∨ op = 0x6 ∨ op = 0x7 ∨ op = 0x8 ∨ op = 0x9 ∨
      op = 0xA ∨ op = 0xB := by
  revert op; decide

/-- How many low bits of DATA an opcode's operands lie in (30_encoding.md R75). -/
def dataBits (op : BitVec 4) : Nat :=
  match op.toNat with
  | 0x2 | 0x8 => 16
  | 0x3 | 0x4 | 0x5 => 28
  | 0x6 => 8
  | 0x7 | 0xA => 1
  | 0xB => 4
  | _ => 0

/-- The MBZ column of R75: the bits above the operands, and bit 3 of WAVE's flags. -/
theorem mbzSet_iff_dataBits {op : BitVec 4} (hop : op.toNat < 0xC) (d : Nat) :
    MbzSet op.toNat d ↔ 2 ^ dataBits op ≤ d ∨ (op = 0x6 ∧ d / 8 % 2 = 1) := by
  rcases op_cases hop with rfl | rfl | rfl | rfl | rfl | rfl | rfl | rfl | rfl | rfl | rfl | rfl <;>
    simp [MbzSet, dataBits, Nat.one_le_iff_ne_zero]

/-- OPERAND_MASK has the bits of the operands, for every opcode but WAVE (30_encoding.md R78). -/
theorem operandMask_toNat {op : BitVec 4} (h : op ≠ 0x6) : (operandMask op).toNat = 2 ^ dataBits op - 1 := by
  revert op; decide

/-- DATA passes a mask when the mask has every bit of it. -/
theorem and_not_eq_zero_iff (d m : BitVec 32) : d &&& ~~~m = 0 ↔ d &&& m = d := by
  simp only [BitVec.eq_of_getElem_eq_iff, BitVec.getElem_and, BitVec.getElem_not, BitVec.ofNat_eq_ofNat,
    BitVec.getElem_zero]
  exact forall₂_congr fun i _ => by cases d[i] <;> cases m[i] <;> decide

/-- A mask of the `n` low bits lets through the numbers below `2 ^ n`. -/
theorem and_not_eq_zero_iff_lt {d m : BitVec 32} {n : Nat} (hm : m.toNat = 2 ^ n - 1) :
    d &&& ~~~m = 0 ↔ d.toNat < 2 ^ n := by
  rw [and_not_eq_zero_iff, BitVec.toNat_eq, BitVec.toNat_and, hm, Nat.and_two_pow_sub_one_eq_mod]
  exact Nat.mod_eq_iff_lt (by simp)

/-- WAVE's mask lets through the numbers of 8 bits whose bit 3 is 0 (10_state.md R33). -/
theorem wave_and_not_eq_zero_iff (d : BitVec 32) :
    d &&& ~~~operandMask 0x6 = 0 ↔ d.toNat < 2 ^ 8 ∧ d.getLsbD 3 = false := by
  have hmask : ~~~operandMask 0x6 = ~~~0xFF#32 ||| BitVec.twoPow 32 3 := by decide
  have hbit : d &&& BitVec.twoPow 32 3 = 0#32 ↔ d.getLsbD 3 = false := by
    rw [BitVec.and_twoPow]
    cases d.getLsbD 3 <;> decide
  rw [hmask, BitVec.and_or_distrib_left, BitVec.ofNat_eq_ofNat, BitVec.or_eq_zero_iff, hbit]
  exact and_congr_left' (and_not_eq_zero_iff_lt rfl)

theorem getLsbD_eq_decide {n : Nat} (v : BitVec n) (i : Nat) : v.getLsbD i = decide (v.toNat / 2 ^ i % 2 = 1) :=
  Nat.testBit_eq_decide_div_mod_eq

/-- The MBZ column of R75 is the complement of OPERAND_MASK (R78). -/
theorem mbzSet_iff {op : BitVec 4} (hop : op.toNat < 0xC) (d : BitVec 32) :
    MbzSet op.toNat d.toNat ↔ d &&& ~~~operandMask op ≠ 0 := by
  rw [mbzSet_iff_dataBits hop]
  by_cases hw : op = 0x6
  · subst hw
    rw [Ne, wave_and_not_eq_zero_iff, getLsbD_eq_decide, decide_eq_false_iff_not, not_and_or, Nat.not_lt, not_not]
    simp [dataBits]
  · rw [Ne, and_not_eq_zero_iff_lt (operandMask_toNat hw), Nat.not_lt]
    exact or_iff_left fun h => hw h.1

/-- The decoding procedure of R78 on the numbers of the fields. -/
theorem decode_eq_checks (w : Word) : decode w =
    if 0xC ≤ opNumber w then .error .illegalOpcode
    else if zNumber w ≠ 0 ∨ MbzSet (opNumber w) (dataNumber w) then .error .reservedField
    else if opNumber w ≤ 0x1 ∧ chNumber w ≠ 0 then .error .reservedField
    else if opNumber w = 0xB ∧ 13 ≤ selNumber w then .error .illegalSelect
    else if opNumber w = 0xB ∧ (selNumber w = 11 ∨ selNumber w = 12) ∧ chNumber w ≠ 0 then .error .reservedField
    else instrOfFields w.op (Chan.ofBits w.chan) w.data := by
  have hz : w.zero ≠ 0 ↔ w.zero.toNat ≠ 0 := by rw [Ne, BitVec.toNat_eq]; rfl
  have hc : w.chan ≠ 0 ↔ w.chan.toNat ≠ 0 := by rw [Ne, BitVec.toNat_eq]; rfl
  have hread : w.op = 0xB ↔ w.op.toNat = 0xB := BitVec.toNat_eq
  have hlow : w.op = 0x0 ∨ w.op = 0x1 ↔ w.op.toNat ≤ 0x1 := by bv_omega
  rw [opNumber_eq, zNumber_eq, dataNumber_eq, chNumber_eq, selNumber_eq]
  unfold decode
  by_cases hop : 0xC ≤ w.op.toNat
  · rw [if_pos hop, if_pos hop]
  · simp only [if_neg hop, mbzSet_iff (Nat.lt_of_not_le hop), hz, hc, hread, hlow, ite_or]

/-! ### Every legal word is the word of a command (30_encoding.md R77) -/

/-- The decoder's answer `x` is a well-formed command whose word is `w`. -/
def IsCommandOf (w : Word) (x : Except FaultCode Instr) : Prop := ∃ i, x = .ok i ∧ i.WellFormed ∧ encode i = w

/-- A number of `n` bits is its low `n` bits. -/
theorem setWidth_extractLsb'_of_lt {n : Nat} {d : BitVec 32} (h : d.toNat < 2 ^ n) :
    (d.extractLsb' 0 n).setWidth 32 = d := by
  rw [BitVec.toNat_eq, BitVec.toNat_setWidth, BitVec.extractLsb'_toNat, Nat.shiftRight_zero, Nat.mod_eq_of_lt h,
    Nat.mod_eq_of_lt d.isLt]

/-- ADSR's register is its four nibbles packed (10_state.md R30). -/
theorem packAdsr_nibbles (v : BitVec 16) : packAdsr (adsrA v) (adsrD v) (adsrS v) (adsrR v) = v := by
  have join (j k : Nat) {l n : Nat} (h : j = k + l) :
      v.extractLsb' j n ++ v.extractLsb' k l = v.extractLsb' k (n + l) :=
    BitVec.extractLsb'_append_extractLsb'_eq_extractLsb' h
  unfold packAdsr adsrA adsrD adsrS adsrR
  rw [join 12 8 rfl, join 8 4 rfl, join 4 0 rfl]
  exact BitVec.extractLsb'_eq_self

/-- Each select below 13 reads one register; OUT and FAULT take no channel (20_memory.md R51). -/
theorem readOfSelect_isCommandOf {c : Chan} {sel : BitVec 4} (h : sel.toNat < 13)
    (hglobal : sel.toNat = 11 ∨ sel.toNat = 12 → c = .c0) :
    IsCommandOf (encodeFields 0xB c (sel.setWidth 32)) (readOfSelect c sel) := by
  have hcases : sel = 11 ∨ sel = 12 ∨ sel = 0 ∨ sel = 1 ∨ sel = 2 ∨ sel = 3 ∨ sel = 4 ∨ sel = 5 ∨ sel = 6 ∨ sel = 7 ∨
      sel = 8 ∨ sel = 9 ∨ sel = 10 := by
    clear hglobal
    revert sel; decide
  rcases hcases with rfl | rfl | rfl | rfl | rfl | rfl | rfl | rfl | rfl | rfl | rfl | rfl | rfl
  · obtain rfl := hglobal (.inl rfl)
    exact ⟨.readOut, rfl, rfl, rfl⟩
  · obtain rfl := hglobal (.inr rfl)
    exact ⟨.readFault, rfl, rfl, rfl⟩
  all_goals exact ⟨_, rfl, rfl, rfl⟩

/-- The operands of R75, opcode by opcode: each lies in DATA where the encoder puts it, and nothing else is in DATA. -/
theorem instrOfFields_isCommandOf {op : BitVec 4} {c : Chan} {d : BitVec 32} (hop : op.toNat < 0xC)
    (hdata : d.toNat < 2 ^ dataBits op) (hwave : op = 0x6 → d.getLsbD 3 = false) (hchan : op.toNat ≤ 0x1 → c = .c0)
    (hsel : op = 0xB → (d.extractLsb' 0 4).toNat < 13)
    (hglobal : op = 0xB → (d.extractLsb' 0 4).toNat = 11 ∨ (d.extractLsb' 0 4).toNat = 12 → c = .c0) :
    IsCommandOf (encodeFields op c d) (instrOfFields op c d) := by
  have operand {n : Nat} (f : BitVec n → Instr) (h : d.toNat < 2 ^ n)
      (hf : instrOfFields op c d = .ok (f (d.extractLsb' 0 n)))
      (hwf : (f (d.extractLsb' 0 n)).WellFormed)
      (he : ∀ v, encode (f v) = encodeFields op c (v.setWidth 32)) :
      IsCommandOf (encodeFields op c d) (instrOfFields op c d) :=
    ⟨_, hf, hwf, by rw [he, setWidth_extractLsb'_of_lt h]⟩
  have noData (h : d.toNat < 1) : d = 0 := by bv_omega
  rcases op_cases hop with rfl | rfl | rfl | rfl | rfl | rfl | rfl | rfl | rfl | rfl | rfl | rfl
  · obtain rfl := hchan (by decide)
    obtain rfl := noData hdata
    exact ⟨.nop, rfl, rfl, rfl⟩
  · obtain rfl := hchan (by decide)
    obtain rfl := noData hdata
    exact ⟨.sample, rfl, rfl, rfl⟩
  · exact operand (.pitch c) hdata rfl rfl fun _ => rfl
  · exact operand (.freq c) hdata rfl rfl fun _ => rfl
  · exact operand (.pwset c) hdata rfl rfl fun _ => rfl
  · exact operand (.pwadd c) hdata rfl rfl fun _ => rfl
  · refine operand (.wave c) hdata rfl ?_ fun _ => rfl
    simpa [Instr.WellFormed, Instr.wellFormed] using hwave rfl
  · exact operand (.gate c) hdata rfl rfl fun _ => rfl
  · refine operand (adsrOfRegister c) hdata (instrOfFields_adsr c d) rfl fun v => ?_
    exact congrArg (fun u : BitVec 16 => encodeFields 0x8 c (u.setWidth 32)) (packAdsr_nibbles v)
  · obtain rfl := noData hdata
    exact ⟨.envrel c, rfl, rfl, rfl⟩
  · exact operand (.active c) hdata rfl rfl fun _ => rfl
  · have hread := readOfSelect_isCommandOf (hsel rfl) (hglobal rfl)
    rwa [setWidth_extractLsb'_of_lt (n := 4) hdata] at hread

/-- A word with Z = 0 is the word of its other fields. -/
theorem encodeFields_fields {w : Word} (hz : w.zero = 0) : encodeFields w.op (Chan.ofBits w.chan) w.data = w := by
  rw [encodeFields, bits_ofBits, ← hz, ofFields_fields]

/-- The fields of a word that passes every check of R78. -/
structure LegalFields (w : Word) : Prop where
  op_lt : opNumber w < 0xC
  z_eq : zNumber w = 0
  mbz_clear : ¬MbzSet (opNumber w) (dataNumber w)
  noChannel : opNumber w ≤ 0x1 → chNumber w = 0
  sel_lt : opNumber w = 0xB → selNumber w < 13
  noChannel_global : opNumber w = 0xB → selNumber w = 11 ∨ selNumber w = 12 → chNumber w = 0

theorem legalFields_iff (w : Word) : LegalFields w ↔ ¬IllegalWord w := by
  constructor
  · intro h
    rintro (hi | hi | hi | ⟨hc, hi | hi | ⟨hb, hi⟩⟩ | ⟨hb, hi⟩)
    · exact absurd h.op_lt (Nat.not_lt.mpr hi)
    · exact hi h.z_eq
    · exact h.mbz_clear hi
    · exact hc (h.noChannel (Nat.le_one_iff_eq_zero_or_eq_one.mpr (.inl hi)))
    · exact hc (h.noChannel (Nat.le_one_iff_eq_zero_or_eq_one.mpr (.inr hi)))
    · exact hc (h.noChannel_global hb hi)
    · exact absurd (h.sel_lt hb) (Nat.not_lt.mpr hi)
  · intro h
    exact {
      op_lt := Nat.lt_of_not_le fun hop => h (.inl hop)
      z_eq := not_not.mp fun hz => h (.inr (.inl hz))
      mbz_clear := fun hm => h (.inr (.inr (.inl hm)))
      noChannel := fun ho => not_not.mp fun hc =>
        h (.inr (.inr (.inr (.inl ⟨hc, (Nat.le_one_iff_eq_zero_or_eq_one.mp ho).imp_right .inl⟩))))
      sel_lt := fun hb => Nat.lt_of_not_le fun hs => h (.inr (.inr (.inr (.inr ⟨hb, hs⟩))))
      noChannel_global := fun hb hs => not_not.mp fun hc =>
        h (.inr (.inr (.inr (.inl ⟨hc, .inr (.inr ⟨hb, hs⟩)⟩)))) }

theorem legalFields_of_decode {w : Word} {i : Instr} (h : decode w = .ok i) : LegalFields w := by
  rw [decode_eq_checks] at h
  split_ifs at h with hop hmbz hchan hsel hglobal
  rw [not_or, not_not] at hmbz
  exact {
    op_lt := Nat.lt_of_not_le hop
    z_eq := hmbz.1
    mbz_clear := hmbz.2
    noChannel := fun ho => not_not.mp fun hc => hchan ⟨ho, hc⟩
    sel_lt := fun hb => Nat.lt_of_not_le fun hs => hsel ⟨hb, hs⟩
    noChannel_global := fun hb hs => not_not.mp fun hc => hglobal ⟨hb, hs, hc⟩ }

theorem ofBits_eq_c0 {b : BitVec 2} (h : b.toNat = 0) : Chan.ofBits b = .c0 := by
  unfold Chan.ofBits; rw [h]; rfl

/-- A word that passes every check is the word of the command it decodes to. -/
theorem LegalFields.isCommandOf_decode {w : Word} (h : LegalFields w) : IsCommandOf w (decode w) := by
  obtain ⟨hop, hz, hmbz, hchan, hsel, hglobal⟩ := h
  rw [decode_eq_checks, if_neg (Nat.not_le_of_lt hop), if_neg (not_or.mpr ⟨not_not.mpr hz, hmbz⟩),
    if_neg fun h => h.2 (hchan h.1), if_neg fun h => Nat.not_le_of_lt (hsel h.1) h.2,
    if_neg fun h => h.2.2 (hglobal h.1 h.2.1)]
  simp only [opNumber_eq, zNumber_eq, dataNumber_eq, chNumber_eq, selNumber_eq] at hop hz hmbz hchan hsel hglobal
  rw [mbzSet_iff_dataBits hop, not_or, not_le, not_and] at hmbz
  have hread {P : Prop} (hp : w.op.toNat = 0xB → P) (h : w.op = 0xB) : P := hp (BitVec.toNat_eq.mp h)
  have hwave (h : w.op = 0x6) : w.data.getLsbD 3 = false := by
    rw [getLsbD_eq_decide]
    exact decide_eq_false (hmbz.2 h)
  have hcommand := instrOfFields_isCommandOf hop hmbz.1 hwave (fun h => ofBits_eq_c0 (hchan h)) (hread hsel)
    fun hb hs => ofBits_eq_c0 (hread hglobal hb hs)
  rwa [encodeFields_fields (BitVec.toNat_eq.mpr hz)] at hcommand

theorem wellFormed_and_encode_of_decode {w : Word} {i : Instr} (h : decode w = .ok i) :
    i.WellFormed ∧ encode i = w := by
  obtain ⟨j, hj, hwf, henc⟩ := (legalFields_of_decode h).isCommandOf_decode
  obtain rfl := Except.ok.inj (h.symm.trans hj)
  exact ⟨hwf, henc⟩

/-- Settles O2: a word that decodes has passed every check, and such a word is the word of its command. -/
theorem encodeOfDecodeIsTheWord : Obligations.EncodeOfDecodeIsTheWord := by
  unfold Obligations.EncodeOfDecodeIsTheWord
  exact fun _ _ => wellFormed_and_encode_of_decode

/-- Settles O4: the checks of `decode_eq_checks` one after another; a word in none of R77's cases passes them all. -/
theorem decodeChecksInOrder : Obligations.DecodeChecksInOrder := by
  unfold Obligations.DecodeChecksInOrder
  intro w
  have pass (hz : zNumber w = 0) (hmbz : ¬MbzSet (opNumber w) (dataNumber w)) :
      ¬(zNumber w ≠ 0 ∨ MbzSet (opNumber w) (dataNumber w)) := not_or.mpr ⟨not_not.mpr hz, hmbz⟩
  refine ⟨fun hop => ?_, fun hop hmbz => ?_, fun hop hz hmbz hc => ?_, fun hop hz hmbz hs => ?_,
    fun hop hz hmbz hs hc => ?_, fun h => ?_⟩
  · rw [decode_eq_checks, if_pos hop]
  · rw [decode_eq_checks, if_neg (Nat.not_le_of_lt hop), if_pos hmbz]
  · rw [decode_eq_checks, if_neg (Nat.not_le_of_lt (hop.trans_lt (by decide))), if_neg (pass hz hmbz),
      if_pos ⟨hop, hc⟩]
  · rw [decode_eq_checks, if_neg (hop ▸ by decide), if_neg (pass hz hmbz), if_neg fun h => absurd h.1 (hop ▸ by decide),
      if_pos ⟨hop, hs⟩]
  · rw [decode_eq_checks, if_neg (hop ▸ by decide), if_neg (pass hz hmbz), if_neg fun h => absurd h.1 (hop ▸ by decide),
      if_neg (by rcases hs with hs | hs <;> simp [hs]), if_pos ⟨hop, hs, hc⟩]
  · obtain ⟨i, hi, -, henc⟩ := ((legalFields_iff w).mpr h).isCommandOf_decode
    exact ⟨i, hi, henc⟩

/-! ### The opcode table (30_encoding.md R77) -/

theorem illegalWord_iff (w : Word) : IllegalWord w ↔ ∃ k, decode w = .error k := by
  constructor
  · intro hw
    cases h : decode w with
    | error k => exact ⟨k, rfl⟩
    | ok i => exact absurd hw ((legalFields_iff w).mp (legalFields_of_decode h))
  · rintro ⟨k, hk⟩
    by_contra hw
    obtain ⟨i, hi, -, -⟩ := ((legalFields_iff w).mpr hw).isCommandOf_decode
    exact absurd (hk.symm.trans hi) (by simp)

/-- What makes every word of a row legal, on the fields of its pattern and mask: OP and Z are fixed, no DATA bit outside
the operand mask is free or set, CH is fixed at 0 where no channel is used, and READ fixes its whole DATA. -/
abbrev RowOfLegalWords (row : OpcodeRow) : Prop :=
  (row.mask.op = 0xF ∧ row.pattern.op.toNat < 0xC) ∧ (row.mask.zero = 3 ∧ row.pattern.zero = 0) ∧
  (row.mask.data &&& ~~~operandMask row.pattern.op = ~~~operandMask row.pattern.op ∧
    row.pattern.data &&& ~~~operandMask row.pattern.op = 0) ∧
  (row.pattern.op.toNat ≤ 0x1 → row.mask.chan = 3 ∧ row.pattern.chan = 0) ∧
  (row.pattern.op.toNat = 0xB → row.mask.data = BitVec.allOnes 32 ∧ (row.pattern.data.extractLsb' 0 4).toNat < 13 ∧
    ((row.pattern.data.extractLsb' 0 4).toNat = 11 ∨ (row.pattern.data.extractLsb' 0 4).toNat = 12 →
      row.mask.chan = 3 ∧ row.pattern.chan = 0))

theorem rowOfLegalWords_of_mem : ∀ row ∈ opcodeTable, RowOfLegalWords row := by decide

theorem matches_iff (row : OpcodeRow) (w : Word) : row.matches w = true ↔ w &&& row.mask = row.pattern :=
  decide_eq_true_iff

/-- Masking a word masks its fields. -/
theorem ofFields_and (op op' : BitVec 4) (c c' z z' : BitVec 2) (d d' : BitVec 32) :
    Word.ofFields op c z d &&& Word.ofFields op' c' z' d' =
      Word.ofFields (op &&& op') (c &&& c') (z &&& z') (d &&& d') := by
  unfold Word.ofFields
  rw [← BitVec.and_append, ← BitVec.and_append, ← BitVec.and_append]

theorem and_ones4 (v : BitVec 4) : v &&& 0xF = v := BitVec.and_allOnes

theorem and_ones2 (v : BitVec 2) : v &&& 3 = v := BitVec.and_allOnes

/-- A row's test, field by field. -/
theorem fields_of_matches {row : OpcodeRow} {w : Word} (h : row.matches w = true) :
    w.op &&& row.mask.op = row.pattern.op ∧ w.chan &&& row.mask.chan = row.pattern.chan ∧
      w.zero &&& row.mask.zero = row.pattern.zero ∧ w.data &&& row.mask.data = row.pattern.data := by
  rw [matches_iff] at h
  rw [← h]
  exact ⟨BitVec.extractLsb'_and.symm, BitVec.extractLsb'_and.symm, BitVec.extractLsb'_and.symm,
    BitVec.extractLsb'_and.symm⟩

theorem legalFields_of_matches {row : OpcodeRow} {w : Word} (hrow : row ∈ opcodeTable) (h : row.matches w = true) :
    LegalFields w := by
  obtain ⟨⟨hmop, hop⟩, ⟨hmz, hz⟩, ⟨hmdata, hdata⟩, hchan, hread⟩ := rowOfLegalWords_of_mem row hrow
  obtain ⟨eop, echan, ez, edata⟩ := fields_of_matches h
  rw [hmop, and_ones4] at eop
  rw [hmz, hz, and_ones2] at ez
  rw [← eop] at hop hmdata hdata hchan hread
  have chan_zero (hc : row.mask.chan = 3 ∧ row.pattern.chan = 0) : w.chan = 0 := by
    rw [hc.1, hc.2, and_ones2] at echan
    exact echan
  have masked : w.data &&& ~~~operandMask w.op = 0 := by
    rw [← hmdata, ← BitVec.and_assoc, edata, hdata]
  have data_eq (hm : row.mask.data = BitVec.allOnes 32) : w.data = row.pattern.data := by
    rw [← edata, hm, BitVec.and_allOnes]
  constructor
  all_goals simp only [opNumber_eq, zNumber_eq, dataNumber_eq, chNumber_eq, selNumber_eq]
  · exact hop
  · rw [ez]; rfl
  · rw [mbzSet_iff hop]; exact not_not.mpr masked
  · intro ho; rw [chan_zero (hchan ho)]; rfl
  · intro hb
    obtain ⟨hm, hs, -⟩ := hread hb
    rwa [data_eq hm]
  · intro hb hs
    obtain ⟨hm, -, hc⟩ := hread hb
    rw [data_eq hm] at hs
    rw [chan_zero (hc hs)]; rfl

/-- Two rows differ in a bit that both fix, so no word is of two rows. -/
theorem rows_disjoint : ∀ row ∈ opcodeTable, ∀ row' ∈ opcodeTable,
    row.pattern &&& row'.mask = row'.pattern &&& row.mask → row = row' := by decide

theorem row_unique {row row' : OpcodeRow} {w : Word} (hrow : row ∈ opcodeTable) (hrow' : row' ∈ opcodeTable)
    (h : row.matches w = true) (h' : row'.matches w = true) : row = row' := by
  rw [matches_iff] at h h'
  refine rows_disjoint row hrow row' hrow' ?_
  rw [← h, ← h', BitVec.and_assoc, BitVec.and_comm row.mask, ← BitVec.and_assoc]

theorem mnemonic_injective : ∀ row ∈ opcodeTable, ∀ row' ∈ opcodeTable, row.mnemonic = row'.mnemonic → row = row' := by
  decide

/-- The place of a command's row in opcode_table.json. -/
def rowIndex : Instr → Fin 24
  | .nop => 0
  | .sample => 1
  | .pitch _ _ => 2
  | .freq _ _ => 3
  | .pwset _ _ => 4
  | .pwadd _ _ => 5
  | .wave _ _ => 6
  | .gate _ _ => 7
  | .adsr _ _ _ _ _ => 8
  | .envrel _ => 9
  | .active _ _ => 10
  | .readPhase _ => 11
  | .readFreq _ => 12
  | .readPw _ => 13
  | .readLfsr _ => 14
  | .readLevel _ => 15
  | .readEnvst _ => 16
  | .readWave _ => 17
  | .readGate _ => 18
  | .readAdsr _ => 19
  | .readActive _ => 20
  | .readWaveout _ => 21
  | .readOut => 22
  | .readFault => 23

/-- A command's row in the opcode table. -/
def rowOf (i : Instr) : OpcodeRow := opcodeTable.get (rowIndex i)

theorem rowOf_mem (i : Instr) : rowOf i ∈ opcodeTable := List.get_mem _ _

theorem rowOf_mnemonic (i : Instr) : (rowOf i).mnemonic = i.mnemonic := by
  cases i <;> rfl

/-- The row of a command that takes a channel and is not READ fixes OP, Z and the must-be-zero bits of DATA. -/
theorem channelRow_matches {row : OpcodeRow} {op : BitVec 4} {c : Chan} {d : BitVec 32}
    (h : LegalFields (encodeFields op c d)) (hp : row.pattern = Word.ofFields op 0 0 0)
    (hm : row.mask = Word.ofFields 0xF 0 3 (~~~operandMask op)) : row.matches (encodeFields op c d) = true := by
  obtain ⟨hop, -, hmbz, -, -, -⟩ := h
  simp only [opNumber_eq, dataNumber_eq, encodeFields, op_ofFields, data_ofFields] at hop hmbz
  rw [mbzSet_iff hop, not_not] at hmbz
  rw [matches_iff, hm, hp, encodeFields, ofFields_and, hmbz, and_ones4, BitVec.ofNat_eq_ofNat, BitVec.and_zero]
  rfl

theorem rowOf_matches_encode {i : Instr} (h : i.WellFormed) : (rowOf i).matches (encode i) = true := by
  have hlegal : LegalFields (encode i) := legalFields_of_decode (decode_encode h)
  cases i
  case nop | sample | readOut | readFault => rfl
  case readPhase c | readFreq c | readPw c | readLfsr c | readLevel c | readEnvst c | readWave c | readGate c |
      readAdsr c | readActive c | readWaveout c => cases c <;> rfl
  all_goals exact channelRow_matches hlegal rfl rfl

/-- A word that decodes is of its command's row and of no other. -/
theorem matches_iff_eq_rowOf {w : Word} {i : Instr} (h : decode w = .ok i) {row : OpcodeRow}
    (hrow : row ∈ opcodeTable) : row.matches w = true ↔ row = rowOf i := by
  obtain ⟨hwf, rfl⟩ := wellFormed_and_encode_of_decode h
  constructor
  · exact fun hm => row_unique hrow (rowOf_mem i) hm (rowOf_matches_encode hwf)
  · rintro rfl
    exact rowOf_matches_encode hwf

theorem eq_rowOf_iff {row : OpcodeRow} (hrow : row ∈ opcodeTable) (i : Instr) :
    row = rowOf i ↔ row.mnemonic = i.mnemonic := by
  rw [← rowOf_mnemonic]
  exact ⟨congrArg _, mnemonic_injective row hrow _ (rowOf_mem i)⟩

theorem illegalWord_iff_no_row (w : Word) : IllegalWord w ↔ ∀ row ∈ opcodeTable, row.matches w = false := by
  constructor
  · intro hw row hrow
    rw [Bool.eq_false_iff]
    exact fun hm => (legalFields_iff w).mp (legalFields_of_matches hrow hm) hw
  · intro hno
    by_contra hw
    obtain ⟨i, hi, -, -⟩ := ((legalFields_iff w).mpr hw).isCommandOf_decode
    have hm := (matches_iff_eq_rowOf hi (rowOf_mem i)).mpr rfl
    exact absurd hm (by simp [hno _ (rowOf_mem i)])

/-- Raising a fault writes FAULT alone (60_exceptions.md R191). -/
theorem raiseFault_eq (k : FaultCode) (s : State) : raiseFault k s = { s with fault := (raiseFault k s).fault } := by
  unfold raiseFault
  split <;> rfl

/-- Settles O3: the illegal words are those without a row (`illegalWord_iff_no_row`), a word that decodes is of its
command's row alone (`matches_iff_eq_rowOf`), and rejecting a word raises a fault. -/
theorem everyWordIsOneTableRowOrIllegal : Obligations.EveryWordIsOneTableRowOrIllegal := by
  unfold Obligations.EveryWordIsOneTableRowOrIllegal
  intro w
  refine ⟨illegalWord_iff w, illegalWord_iff_no_row w, fun i hi row hrow => ?_, fun s hw => ?_⟩
  · rw [matches_iff_eq_rowOf hi hrow, eq_rowOf_iff hrow]
  · obtain ⟨k, hk⟩ := (illegalWord_iff w).mp hw
    exact ⟨_, by rw [acceptWord_error hk, raiseFault_eq]⟩

end Sys2Proof.Machine

/-! PROOFS. The encoding family (30_encoding.md), text: what the assembler gives is well-formed, an operand is in its
field or refused, READ by name, the pseudo-instructions whose commands may come in any order, and the examples. -/
namespace Sys2Proof.Machine

/-! ### Whatever text is accepted, the commands are well-formed (30_encoding.md R80) -/

/-- What an operation gives, if it gives anything, has property `P`. -/
def Gives {α : Type} (P : α → Prop) (o : Option α) : Prop := ∀ x, o = some x → P x

/-- Every command of the list is one of the block. -/
abbrev AllWellFormed (is : List Instr) : Prop := ∀ i ∈ is, i.WellFormed

theorem allWellFormed_singleton {i : Instr} : AllWellFormed [i] ↔ i.WellFormed := List.forall_mem_singleton

section
variable {α β : Type} {P : β → Prop}

theorem Gives.none : Gives P none := fun _ h => nomatch h

theorem Gives.some {x : β} (h : P x) : Gives P (some x) := by
  rintro y ⟨⟩
  exact h

theorem Gives.bind {o : Option α} {f : α → Option β} (h : ∀ x, o = .some x → Gives P (f x)) : Gives P (o.bind f) := by
  intro y hy
  obtain ⟨x, hx, hf⟩ := Option.bind_eq_some_iff.mp hy
  exact h x hx y hf

theorem Gives.map {o : Option α} {f : α → β} (h : ∀ x, o = .some x → P (f x)) : Gives P (o.map f) := by
  intro y hy
  obtain ⟨x, hx, rfl⟩ := Option.map_eq_some_iff.mp hy
  exact h x hx

theorem gives_lookupName {table : List (String × β)} (h : ∀ e ∈ table, P e.2) (word : List Char) :
    Gives P (lookupName table word) :=
  .map fun e he => h e (List.mem_of_find?_eq_some he)

end

/-- Flags with bit 3 set are refused (10_state.md R33); that is the one check of well-formedness. -/
theorem asmWave_wellFormed (c : Chan) (v : Int) : Gives Instr.WellFormed (asmWave c v) := by
  refine .bind fun u _ => ?_
  split
  · exact .none
  · next h3 => exact .some (by simpa [Instr.WellFormed, Instr.wellFormed] using h3)

theorem asmPitch_wellFormed (c : Chan) (q : Int) : Gives Instr.WellFormed (asmPitch c q) := .map fun _ _ => rfl

theorem asmAdsr_wellFormed (c : Chan) (a d su r : Int) : Gives Instr.WellFormed (asmAdsr c a d su r) :=
  .bind fun _ _ => .bind fun _ _ => .bind fun _ _ => .bind fun _ _ => .some rfl

theorem asmNibbles_wellFormed (c : Chan) (a d su r : List Char) : Gives Instr.WellFormed (asmNibbles c a d su r) :=
  .bind fun _ _ => .bind fun _ _ => .bind fun _ _ => .bind fun _ _ => asmAdsr_wellFormed c _ _ _ _

theorem asmOne_wellFormed {make : Chan → Int → Option Instr} (h : ∀ c v, Gives Instr.WellFormed (make c v))
    (c v : List Char) : Gives AllWellFormed (asmOne make c v) :=
  .bind fun c _ => .bind fun v _ => .bind fun i hi => .some (allWellFormed_singleton.mpr (h c v i hi))

theorem asmNote_wellFormed (c : Chan) (n off : Int) : Gives AllWellFormed (asmNote c n off) :=
  .bind fun _ _ => .map fun i hi => allWellFormed_singleton.mpr (asmPitch_wellFormed c _ i hi)

theorem bindWith_wellFormed {c : Chan} {i : Instr} (h : i.WellFormed) : AllWellFormed (bindWith c i) :=
  List.forall_mem_cons.mpr ⟨h, List.forall_mem_cons.mpr ⟨rfl, allWellFormed_singleton.mpr rfl⟩⟩

theorem channelReads_wellFormed : ∀ e ∈ channelReads, ∀ c, (e.2 c).WellFormed := by
  simp [channelReads, Instr.WellFormed, Instr.wellFormed]

theorem globalReads_wellFormed : ∀ e ∈ globalReads, e.2.WellFormed := by decide

/-- Arm by arm in the order of `assembleOperands`: WAVE is checked by `asmWave`, and every other command is well-formed
whatever its operands. -/
theorem assembleOperands_wellFormed (k : AsmWord) (ops : List (List Char)) :
    Gives AllWellFormed (assembleOperands k ops) := by
  unfold assembleOperands
  split
  -- NOP, SAMPLE
  · exact .some (by decide)
  · exact .some (by decide)
  -- PITCH, FREQ, PWSET, PWADD
  · exact asmOne_wellFormed asmPitch_wellFormed _ _
  · exact asmOne_wellFormed (fun _ _ => .map fun _ _ => rfl) _ _
  · exact asmOne_wellFormed (fun _ _ => .map fun _ _ => rfl) _ _
  · exact asmOne_wellFormed (fun _ _ => .map fun _ _ => rfl) _ _
  -- WAVE
  · exact .bind fun c _ => .bind fun v _ => .bind fun i hi =>
      .some (allWellFormed_singleton.mpr (asmWave_wellFormed c v i hi))
  -- GATE
  · exact asmOne_wellFormed (fun _ _ => .map fun _ _ => rfl) _ _
  -- ADSR from one number, from four nibbles
  · exact asmOne_wellFormed (fun _ _ => .map fun _ _ => rfl) _ _
  · exact .bind fun c _ => .bind fun i hi =>
      .some (allWellFormed_singleton.mpr (asmNibbles_wellFormed c _ _ _ _ i hi))
  -- ENVREL, ACTIVE
  · exact .map fun c _ => allWellFormed_singleton.mpr rfl
  · exact asmOne_wellFormed (fun _ _ => .map fun _ _ => rfl) _ _
  -- READ of a channel register, of OUT or FAULT
  · exact .bind fun c _ => .bind fun make hm =>
      .some (allWellFormed_singleton.mpr
      (gives_lookupName (P := fun f => ∀ c, (f c).WellFormed) channelReads_wellFormed _ make hm c))
  · exact .map fun i hi => allWellFormed_singleton.mpr (gives_lookupName globalReads_wellFormed _ i hi)
  -- NOTE without an offset, with one
  · exact .bind fun c _ => .bind fun n _ => asmNote_wellFormed c n 0
  · exact .bind fun c _ => .bind fun n _ => .bind fun off _ => asmNote_wellFormed c n off
  -- NOTEOFF, BIND, SILENCE, MUTE, UNMUTE, RENDER
  · exact .map fun c _ => allWellFormed_singleton.mpr rfl
  · exact .bind fun c _ => .bind fun i hi => .some (bindWith_wellFormed (asmNibbles_wellFormed c _ _ _ _ i hi))
  · exact .map fun c _ => List.forall_mem_cons.mpr ⟨rfl, allWellFormed_singleton.mpr rfl⟩
  · exact .map fun c _ => allWellFormed_singleton.mpr rfl
  · exact .map fun c _ => allWellFormed_singleton.mpr rfl
  · exact .map fun k _ i hi => List.eq_of_mem_replicate hi ▸ rfl
  -- any other line
  · exact .none

/-- Settles O8: no line gives a command but through `assembleOperands`. -/
theorem assembledCommandsAreWellFormed : Obligations.AssembledCommandsAreWellFormed := by
  unfold Obligations.AssembledCommandsAreWellFormed
  intro line
  show Gives AllWellFormed (parseLine line)
  unfold parseLine
  dsimp only
  split
  · exact .some (List.forall_mem_nil _)
  · exact .bind fun k _ => assembleOperands_wellFormed k _

/-! ### Operands that fit their field, and operands that do not (30_encoding.md R80) -/

theorem inRange_of_le {lo hi v : Int} (h : lo ≤ v ∧ v ≤ hi) : inRange lo hi v = some v := if_pos h

theorem inRange_of_lt {lo hi v : Int} (h : v < lo ∨ hi < v) : inRange lo hi v = none := if_neg (by omega)

/-- A field of `n` bits takes a number modulo `2 ^ n`. -/
theorem natCast_toNat_ofInt (n : Nat) (v : Int) : ((BitVec.ofInt n v).toNat : Int) = v % 2 ^ n := by
  rw [BitVec.toNat_ofInt, Int.toNat_of_nonneg (Int.emod_nonneg _ (by positivity))]
  norm_cast

/-- A number from 0 to `hi` is in a field of `n` bits as it is. -/
theorem inRange_map_fits {α : Type} {n : Nat} {hi v : Int} (hn : hi < 2 ^ n) (h : 0 ≤ v ∧ v ≤ hi) (f : BitVec n → α) :
    ∃ u, (inRange 0 hi v).map (fun v => f (BitVec.ofInt n v)) = some (f u) ∧ (u.toNat : Int) = v := by
  refine ⟨BitVec.ofInt n v, by rw [inRange_of_le h, Option.map_some], ?_⟩
  rw [natCast_toNat_ofInt, Int.emod_eq_of_lt h.1 (by omega)]

theorem inRange_map_none {α : Type} {lo hi v : Int} (h : v < lo ∨ hi < v) (f : Int → α) :
    (inRange lo hi v).map f = none := by
  rw [inRange_of_lt h, Option.map_none]

theorem asmPitch_fits (c : Chan) {v : Int} (h : -32768 ≤ v ∧ v ≤ 32767) :
    ∃ q, asmPitch c v = some (.pitch c q) ∧ q.toInt = v :=
  ⟨BitVec.ofInt 16 v, by rw [asmPitch, inRange_of_le h, Option.map_some],
    BitVec.toInt_ofInt_eq_self (by decide) h.1 (by omega)⟩

theorem wrapNegative_of_nonneg {v : Int} (h : 0 ≤ v) : wrapNegative v = v := if_neg (by omega)

theorem wrapNegative_of_neg {v : Int} (h : -2 ^ 27 ≤ v ∧ v < 0) : wrapNegative v = v + 2 ^ 28 := if_pos h

/-- Of the numbers of 8 bits, WAVE takes those whose bit 3 is 0 (10_state.md R33). -/
theorem asmWave_eq (c : Chan) {v : Int} (h : 0 ≤ v ∧ v < 256) :
    asmWave c v = if v / 8 % 2 = 1 then none else some (.wave c (BitVec.ofInt 8 v)) := by
  have hv := natCast_toNat_ofInt 8 v
  have hbit : (BitVec.ofInt 8 v).getLsbD 3 = true ↔ v / 8 % 2 = 1 := by
    rw [getLsbD_eq_decide, decide_eq_true_iff]
    omega
  rw [asmWave, inRange_of_le ⟨h.1, by omega⟩, Option.bind_some]
  simp only [hbit]

theorem asmWave_fits (c : Chan) {v : Int} (h : 0 ≤ v ∧ v < 256 ∧ v / 8 % 2 = 0) :
    ∃ u, asmWave c v = some (.wave c u) ∧ (u.toNat : Int) = v := by
  obtain ⟨h0, hlt, h3⟩ := h
  refine ⟨BitVec.ofInt 8 v, by rw [asmWave_eq c ⟨h0, hlt⟩, if_neg (by omega)], ?_⟩
  exact (natCast_toNat_ofInt 8 v).trans (Int.emod_eq_of_lt h0 hlt)

theorem asmWave_refuses (c : Chan) {v : Int} (h : v < 0 ∨ 256 ≤ v ∨ v / 8 % 2 = 1) : asmWave c v = none := by
  by_cases hv : 0 ≤ v ∧ v < 256
  · rw [asmWave_eq c hv, if_pos (by omega)]
  · rw [asmWave, inRange_of_lt (by omega), Option.bind_none]

theorem asmNibble_fits {v : Int} (h : 0 ≤ v ∧ v ≤ 15) : ∃ n, asmNibble v = some n ∧ (n.toNat : Int) = v :=
  inRange_map_fits (by decide) h id

theorem asmNibble_refuses {v : Int} (h : v < 0 ∨ 15 < v) : asmNibble v = none := inRange_map_none h _

theorem asmBit_fits {v : Int} (h : 0 ≤ v ∧ v ≤ 1) : ∃ b, asmBit v = some b ∧ (b.toNat : Int) = v :=
  inRange_map_fits (by decide) h id

theorem asmBit_refuses {v : Int} (h : v < 0 ∨ 1 < v) : asmBit v = none := inRange_map_none h _

theorem asmAdsr_fits (c : Chan) {a d su r : Int}
    (h : (0 ≤ a ∧ a ≤ 15) ∧ (0 ≤ d ∧ d ≤ 15) ∧ (0 ≤ su ∧ su ≤ 15) ∧ (0 ≤ r ∧ r ≤ 15)) : ∃ na nd ns nr,
      asmAdsr c a d su r = some (.adsr c na nd ns nr) ∧
      (na.toNat : Int) = a ∧ (nd.toNat : Int) = d ∧ (ns.toNat : Int) = su ∧ (nr.toNat : Int) = r := by
  obtain ⟨ha, hd, hs, hr⟩ := h
  obtain ⟨na, ea, va⟩ := asmNibble_fits ha
  obtain ⟨nd, ed, vd⟩ := asmNibble_fits hd
  obtain ⟨ns, es, vs⟩ := asmNibble_fits hs
  obtain ⟨nr, er, vr⟩ := asmNibble_fits hr
  refine ⟨na, nd, ns, nr, ?_, va, vd, vs, vr⟩
  simp only [asmAdsr, ea, ed, es, er]
  rfl

theorem asmAdsr_refuses (c : Chan) {a d su r : Int}
    (h : (a < 0 ∨ 15 < a) ∨ (d < 0 ∨ 15 < d) ∨ (su < 0 ∨ 15 < su) ∨ (r < 0 ∨ 15 < r)) : asmAdsr c a d su r = none := by
  unfold asmAdsr
  rcases h with h | h | h | h <;> simp [asmNibble_refuses h]

theorem asmAdsrPacked_fits (c : Chan) {v : Int} (h : 0 ≤ v ∧ v < 2 ^ 16) : ∃ na nd ns nr,
    asmAdsrPacked c v = some (.adsr c na nd ns nr) ∧ (na.toNat : Int) = v / 2 ^ 12 ∧
      (nd.toNat : Int) = v / 2 ^ 8 % 16 ∧ (ns.toNat : Int) = v / 2 ^ 4 % 16 ∧ (nr.toNat : Int) = v % 16 := by
  refine ⟨_, _, _, _, by rw [asmAdsrPacked, inRange_of_le ⟨h.1, by omega⟩, Option.map_some], ?_, ?_, ?_, ?_⟩ <;>
    rw [natCast_toNat_ofInt] <;> omega

/-- Settles O9: every operand goes through `inRange` into a field (`inRange_map_fits`, `inRange_map_none`); PITCH is the
one signed field, PWADD first wraps a negative number, and WAVE refuses bit 3 (`asmWave_eq`). -/
theorem assemblerFitsOperandsOrRefuses : Obligations.AssemblerFitsOperandsOrRefuses := by
  unfold Obligations.AssemblerFitsOperandsOrRefuses
  intro c v a d su r
  refine ⟨asmPitch_fits c, fun h => inRange_map_none h _,
    fun h => inRange_map_fits (by decide) ⟨h.1, by omega⟩ (Instr.freq c), fun h => inRange_map_none (by omega) _,
    fun h => inRange_map_fits (by decide) ⟨h.1, by omega⟩ (Instr.pwset c), fun h => inRange_map_none (by omega) _,
    fun h => ?_, fun h => ?_, fun h => ?_,
    asmWave_fits c, asmWave_refuses c, fun h => ?_, fun h => ?_,
    asmNibble_fits, asmNibble_refuses, asmAdsr_fits c, asmAdsr_refuses c, asmAdsrPacked_fits c,
    fun h => inRange_map_none (by omega) _⟩
  · rw [asmPwadd, wrapNegative_of_nonneg h.1]
    exact inRange_map_fits (by decide) ⟨h.1, by omega⟩ (Instr.pwadd c)
  · rw [asmPwadd, wrapNegative_of_neg h]
    exact inRange_map_fits (by decide) (by omega) (Instr.pwadd c)
  · exact inRange_map_none (by unfold wrapNegative; split <;> omega) _
  · obtain ⟨b, hb, hv⟩ := asmBit_fits h
    exact ⟨b, by rw [asmGate, hb, Option.map_some], by rw [asmActive, hb, Option.map_some], hv⟩
  · rw [asmGate, asmActive, asmBit_refuses h]
    exact ⟨rfl, rfl⟩

/-! ### READ by its register's name (30_encoding.md R80, 20_memory.md R51) -/

theorem assembleOperands_readChannel (channel sel : List Char) : assembleOperands .read [channel, sel] =
    (parseChan channel).bind fun c => (lookupName channelReads sel).bind fun make => some [make c] := rfl

theorem assembleOperands_readGlobal (sel : List Char) :
    assembleOperands .read [sel] = (lookupName globalReads sel).map fun i => [i] := rfl

theorem lookupName_eq_none {α : Type} {table : List (String × α)} {word : List Char}
    (h : ∀ e ∈ table, word ≠ e.1.toList) : lookupName table word = none := by
  rw [lookupName, Option.map_eq_none_iff, List.find?_eq_none]
  exact fun e he heq => h e he (of_decide_eq_true heq).symm

/-- The fields of a READ word as numbers. -/
theorem readWord_fields (c : Chan) (sel : BitVec 32) : opNumber (encodeFields 0xB c sel) = 0xB ∧
    Chan.ofBits (encodeFields 0xB c sel).chan = c ∧ selNumber (encodeFields 0xB c sel) = sel.toNat % 16 := by
  simp [opNumber_eq, selNumber_eq, encodeFields, op_ofFields, chan_ofFields, data_ofFields]

/-- Settles O57: READ by name is a look-up (`assembleOperands_readChannel`, `assembleOperands_readGlobal`), and the
word of each name has that channel and select (`readWord_fields`). -/
theorem assemblerReadsByName : Obligations.AssemblerReadsByName := by
  unfold Obligations.AssemblerReadsByName
  intro channel sel
  refine ⟨fun e he c hc => ?_, fun h => ?_, ?_, ?_, fun hout hfault => ?_⟩
  · have word {make : Chan → Instr} {d : BitVec 32} (hl : lookupName channelReads e.1.toList = some make)
        (hwf : (make c).WellFormed) (hw : encode (make c) = encodeFields 0xB c d) (hs : d.toNat % 16 = e.2) :
        ∃ i, assembleOperands .read [channel, e.1.toList] = some [i] ∧ i.WellFormed ∧ opNumber (encode i) = 0xB ∧
          Chan.ofBits (encode i).chan = c ∧ selNumber (encode i) = e.2 := by
      refine ⟨make c, ?_, hwf, ?_⟩
      · rw [assembleOperands_readChannel, hc, Option.bind_some, hl, Option.bind_some]
      · rw [hw, ← hs]; exact readWord_fields c d
    simp only [List.mem_cons, List.not_mem_nil, or_false] at he
    rcases he with rfl | rfl | rfl | rfl | rfl | rfl | rfl | rfl | rfl | rfl | rfl <;> exact word rfl rfl rfl rfl
  · rw [assembleOperands_readChannel]
    rcases h with h | h
    · rw [h, Option.bind_none]
    · have hsel : ∀ e ∈ channelReads, sel ≠ e.1.toList := fun e he => h e.1 (List.mem_map_of_mem he)
      rw [lookupName_eq_none hsel]
      cases parseChan channel <;> rfl
  · rintro rfl; rfl
  · rintro rfl; rfl
  · have hsel : ∀ e ∈ globalReads, sel ≠ e.1.toList := by
      simp only [globalReads, List.forall_mem_cons]
      exact ⟨hout, hfault, List.forall_mem_nil _⟩
    rw [assembleOperands_readGlobal, lookupName_eq_none hsel, Option.map_none]

/-! ### BIND and SILENCE (30_encoding.md R81) -/

/-- What ADSR, GATE and ENVREL do to their channel's registers. -/
def writeOf : Instr → ChannelRegs → ChannelRegs
  | .adsr _ a d su r, q => { q with adsr := packAdsr a d su r }
  | .gate _ b, q => { q with gate := b }
  | .envrel _, q => { q with envst := .release }
  | _, q => q

/-- Command `i` does to channel `c` what `writeOf` says, and nothing else. -/
def WritesChannel (c : Chan) (i : Instr) : Prop := ∀ s, exec i s = .next (s.setChan c (writeOf i (s.chan c)))

theorem execAll_eq_setChan {c : Chan} {l : List Instr} (h : ∀ i ∈ l, WritesChannel c i) (s : State) :
    execAll l s = .next (s.setChan c (l.foldl (fun q i => writeOf i q) (s.chan c))) := by
  induction l generalizing s with
  | nil => rw [List.foldl_nil, State.setChan_chan]; rfl
  | cons i is ih =>
    rw [List.forall_mem_cons] at h
    simp only [execAll, h.1 s, ih h.2, List.foldl_cons, State.chan_setChan_same, State.setChan_setChan]

theorem onlyChannelBecomes_setChan (s : State) (c : Chan) (r : ChannelRegs) :
    OnlyChannelBecomes c r s (s.setChan c r) where
  written := State.chan_setChan_same s c r
  others _ hd := State.chan_setChan_ne s r hd
  globals := ⟨rfl, rfl, rfl⟩
  ports := ⟨rfl, rfl, rfl, rfl⟩

/-- Commands of one channel whose writes commute may come in any order. -/
theorem execAll_perm {c : Chan} {l l' : List Instr} (hp : l.Perm l') (h : ∀ i ∈ l', WritesChannel c i)
    (hcomm : ∀ x ∈ l', ∀ y ∈ l', ∀ q, writeOf y (writeOf x q) = writeOf x (writeOf y q)) (s : State) :
    ∃ t, execAll l s = .next t ∧ OnlyChannelBecomes c (l'.foldl (fun q i => writeOf i q) (s.chan c)) s t := by
  refine ⟨_, execAll_eq_setChan (fun i hi => h i (hp.mem_iff.mp hi)) s, ?_⟩
  rw [← hp.symm.foldl_eq' hcomm]
  exact onlyChannelBecomes_setChan s c _

theorem bindWith_writes (c : Chan) (a d su r : BitVec 4) :
    ∀ i ∈ bindWith c (.adsr c a d su r), WritesChannel c i := by
  simp only [bindWith, List.forall_mem_cons]
  exact ⟨fun _ => rfl, fun _ => rfl, fun _ => rfl, List.forall_mem_nil _⟩

theorem silence_writes (c : Chan) : ∀ i ∈ silence c, WritesChannel c i := by
  simp only [silence, List.forall_mem_cons]
  exact ⟨fun _ => rfl, fun _ => rfl, List.forall_mem_nil _⟩

/-- The three commands of BIND write three different registers. -/
theorem bindWith_commute (c : Chan) (a d su r : BitVec 4) :
    ∀ x ∈ bindWith c (.adsr c a d su r), ∀ y ∈ bindWith c (.adsr c a d su r), ∀ q,
      writeOf y (writeOf x q) = writeOf x (writeOf y q) := by
  simp [bindWith, writeOf]

theorem silence_commute (c : Chan) :
    ∀ x ∈ silence c, ∀ y ∈ silence c, ∀ q, writeOf y (writeOf x q) = writeOf x (writeOf y q) := by
  simp [silence, writeOf]

/-- Settles O10: the commands of BIND and of SILENCE write different registers of one channel (`execAll_perm`). -/
theorem bindAndSilenceInAnyOrder : Obligations.BindAndSilenceInAnyOrder := by
  unfold Obligations.BindAndSilenceInAnyOrder
  intro c a d su r s l
  exact ⟨fun hp => execAll_perm hp (bindWith_writes c a d su r) (bindWith_commute c a d su r) s,
    fun hp => execAll_perm hp (silence_writes c) (silence_commute c) s⟩

/-! ### The examples (30_encoding.md R82) -/

/-- Settles O6: the text and the word of each example by evaluation; that the word decodes to the command is the round
trip (`decode_encode`). -/
theorem encodingExamples : Obligations.EncodingExamples := by
  unfold Obligations.EncodingExamples
  intro e he
  have htext : assembleLine e.1.toList = some [e.2.2] ∧ encode e.2.1 = e.2.2 ∧ e.2.1.WellFormed := by
    revert e; decide
  obtain ⟨hline, hword, hwf⟩ := htext
  exact ⟨hline, hword, hword ▸ decode_encode hwf⟩

end Sys2Proof.Machine

/-! PROOFS. The pitch family (40_pitch.md). The converter is the floor of R100's real formula (`pitchToFreq_eq_floor`):
the decidable test is `n ≤ F(q)` (`pitchFits_iff`), and the search starts above `F(q)` (`realIncrement_lt_two_pow`). The
converter's laws and the legal range are facts about the real formula carried through the floor; the values at 44100
are evaluations of the search. The commands are one register write each (`onlyChannelBecomes_setChan`). -/
namespace Sys2Proof.Machine

/-! ### The real formula (40_pitch.md R100) -/

/-- `F(q)`, the exact real increment. -/
noncomputable def realIncrement (cfg : Config) (q : Int) : ℝ :=
  440 * 2 ^ 28 * (2 : ℝ) ^ (((q : ℝ) - 232) / 48) / (cfg.sampleRate : ℝ)

theorem realIncrement_nonneg (cfg : Config) (q : Int) : 0 ≤ realIncrement cfg q := by
  unfold realIncrement
  positivity

theorem realIncrement_reference (cfg : Config) :
    realIncrement cfg 232 = ((440 * 2 ^ 28 : Nat) : ℝ) / (cfg.sampleRate : ℝ) := by
  norm_num [realIncrement]

/-- 48 steps of a quarter-semitone double the increment. -/
theorem realIncrement_octave (cfg : Config) (q : Int) : realIncrement cfg (q + 48) = 2 * realIncrement cfg q := by
  have hexp : (((q + 48 : Int) : ℝ) - 232) / 48 = ((q : ℝ) - 232) / 48 + 1 := by push_cast; ring
  unfold realIncrement
  rw [hexp, Real.rpow_add_one two_ne_zero]
  ring

theorem realIncrement_mono (cfg : Config) : Monotone (realIncrement cfg) := by
  intro q1 q2 h
  have hq : (q1 : ℝ) ≤ q2 := Int.cast_le.mpr h
  unfold realIncrement
  gcongr
  exact one_le_two

/-- The increment fits 28 bits below the pitch at which `2 ^ ((q - 232) / 48)` is `SAMPLE_RATE / 440` (R102). -/
theorem realIncrement_lt_iff {cfg : Config} (h : cfg.Lawful) (q : Int) :
    realIncrement cfg q < 2 ^ 28 ↔ (q : ℝ) < 232 + 48 * Real.logb 2 ((cfg.sampleRate : ℝ) / 440) := by
  have hrate : (0 : ℝ) < cfg.sampleRate := Nat.cast_pos.mpr h.sampleRate_pos
  calc realIncrement cfg q < 2 ^ 28
      ↔ (2 : ℝ) ^ (((q : ℝ) - 232) / 48) < (cfg.sampleRate : ℝ) / 440 := by
        rw [realIncrement, div_lt_iff₀ hrate, lt_div_iff₀ (by norm_num)]
        constructor <;> intro hlt <;> linarith
    _ ↔ ((q : ℝ) - 232) / 48 < Real.logb 2 ((cfg.sampleRate : ℝ) / 440) :=
        (Real.lt_logb_iff_rpow_lt one_lt_two (by positivity)).symm
    _ ↔ (q : ℝ) < 232 + 48 * Real.logb 2 ((cfg.sampleRate : ℝ) / 440) := by
        rw [div_lt_iff₀ (by norm_num)]
        constructor <;> intro hlt <;> linarith

/-- The search's first bit is above every increment: `440 × 2^28 < 2^37`, and an octave is one bit. -/
theorem realIncrement_lt_two_pow {cfg : Config} (h : cfg.Lawful) (q : Int) :
    realIncrement cfg q < 2 ^ pitchBits q := by
  have hrate : (1 : ℝ) ≤ cfg.sampleRate := Nat.one_le_cast.mpr h.sampleRate_pos
  have hexp : ((q : ℝ) - 232) / 48 ≤ (((q - 232).toNat / 48 + 1 : Nat) : ℝ) := by
    have hq : q - 232 ≤ (((q - 232).toNat / 48 + 1 : Nat) : Int) * 48 := by omega
    generalize (q - 232).toNat / 48 + 1 = m at hq ⊢
    rw [div_le_iff₀ (by norm_num)]
    exact_mod_cast hq
  calc realIncrement cfg q
      ≤ 440 * 2 ^ 28 * (2 : ℝ) ^ (((q : ℝ) - 232) / 48) := div_le_self (by positivity) hrate
    _ ≤ 440 * 2 ^ 28 * (2 : ℝ) ^ ((q - 232).toNat / 48 + 1) := by
        rw [← Real.rpow_natCast 2 ((q - 232).toNat / 48 + 1)]
        gcongr
        exact one_le_two
    _ < 2 ^ 37 * (2 : ℝ) ^ ((q - 232).toNat / 48 + 1) := by gcongr; norm_num
    _ = 2 ^ pitchBits q := by rw [pitchBits]; ring

/-! ### The converter is its floor (40_pitch.md R100) -/

/-- The 48th power of `2 ^ ((q - 232) / 48)` is `2 ^ (q - 232)`, written without negative exponents. -/
theorem rpow_pow_mul_two_pow (q : Int) :
    ((2 : ℝ) ^ (((q : ℝ) - 232) / 48)) ^ 48 * 2 ^ (232 - q).toNat = 2 ^ (q - 232).toNat := by
  have hk : (q : ℝ) - 232 + ((232 - q).toNat : ℝ) = ((q - 232).toNat : ℝ) := by
    have hk : q - 232 + ((232 - q).toNat : Int) = ((q - 232).toNat : Int) := by omega
    exact_mod_cast hk
  rw [← Real.rpow_mul_natCast two_pos.le, ← Real.rpow_natCast 2 (232 - q).toNat, ← Real.rpow_add two_pos,
    ← Real.rpow_natCast 2 (q - 232).toNat, ← hk]
  congr 2
  push_cast
  ring

/-- The decidable test is `n ≤ F(q)`: both sides times SAMPLE_RATE, to the 48th power. -/
theorem pitchFits_iff {cfg : Config} (h : cfg.Lawful) (q : Int) (n : Nat) :
    pitchFits cfg.sampleRate q n = true ↔ (n : ℝ) ≤ realIncrement cfg q := by
  have hrate : (0 : ℝ) < cfg.sampleRate := Nat.cast_pos.mpr h.sampleRate_pos
  calc pitchFits cfg.sampleRate q n = true
      ↔ ((n : ℝ) * cfg.sampleRate) ^ 48 * 2 ^ (232 - q).toNat ≤ (440 * 2 ^ 28) ^ 48 * 2 ^ (q - 232).toNat := by
        rw [pitchFits, decide_eq_true_iff]
        exact_mod_cast Iff.rfl
    _ ↔ ((n : ℝ) * cfg.sampleRate) ^ 48 ≤ (440 * 2 ^ 28 * (2 : ℝ) ^ (((q : ℝ) - 232) / 48)) ^ 48 := by
        rw [← rpow_pow_mul_two_pow, ← mul_assoc, ← mul_pow, mul_le_mul_iff_left₀ (by positivity)]
    _ ↔ (n : ℝ) * cfg.sampleRate ≤ 440 * 2 ^ 28 * (2 : ℝ) ^ (((q : ℝ) - 232) / 48) :=
        pow_le_pow_iff_left₀ (by positivity) (by positivity) (by norm_num)
    _ ↔ (n : ℝ) ≤ realIncrement cfg q := (le_div_iff₀ hrate).symm

theorem pitchToFreq_eq_floor {cfg : Config} (h : cfg.Lawful) (q : Int) :
    pitchToFreq cfg q = ⌊realIncrement cfg q⌋₊ := by
  have hzero : pitchFits cfg.sampleRate q 0 = true :=
    (pitchFits_iff h q 0).mpr (by simpa using realIncrement_nonneg cfg q)
  have htop : pitchFits cfg.sampleRate q (0 + 2 ^ pitchBits q) = false := by
    rw [Bool.eq_false_iff, Ne, pitchFits_iff h, not_le]
    simpa using realIncrement_lt_two_pow h q
  obtain ⟨hfits, -, hnext⟩ := searchBits_spec _ _ _ hzero htop
  rw [Bool.eq_false_iff, Ne, pitchFits_iff h, not_le, Nat.cast_succ] at hnext
  exact ((Nat.floor_eq_iff (realIncrement_nonneg cfg q)).mpr ⟨(pitchFits_iff h q _).mp hfits, hnext⟩).symm

/-- The converter's answer is the greatest number that fits. -/
theorem le_pitchToFreq_iff {cfg : Config} (h : cfg.Lawful) (q : Int) (n : Nat) :
    n ≤ pitchToFreq cfg q ↔ pitchFits cfg.sampleRate q n = true := by
  rw [pitchToFreq_eq_floor h, Nat.le_floor_iff (realIncrement_nonneg cfg q), pitchFits_iff h]

/-- The test as R100 writes its exponents, `max 0 (−k)` and `max 0 k` for `k = q − 232`. -/
theorem pitchFits_iff_max (sampleRate : Nat) (q : Int) (n : Nat) :
    pitchFits sampleRate q n = true ↔
      (n * sampleRate) ^ 48 * 2 ^ (max 0 (-(q - 232))).toNat ≤ (440 * 2 ^ 28) ^ 48 * 2 ^ (max 0 (q - 232)).toNat := by
  have hneg : (max 0 (-(q - 232))).toNat = (232 - q).toNat := by omega
  have hpos : (max 0 (q - 232)).toNat = (q - 232).toNat := by omega
  rw [hneg, hpos, pitchFits, decide_eq_true_iff]

/-- Settles O27: the floor is `pitchToFreq_eq_floor`, and the greatest number that fits is the same fact read through
the decidable test (`le_pitchToFreq_iff`). -/
theorem pitchToFreqIsTheExactFloor : Obligations.PitchToFreqIsTheExactFloor := by
  unfold Obligations.PitchToFreqIsTheExactFloor
  intro cfg q h
  simp only [← pitchFits_iff_max, ← le_pitchToFreq_iff h]
  exact ⟨pitchToFreq_eq_floor h q, le_rfl, fun _ hn => hn⟩

/-! ### The laws of the converter and the legal pitches (40_pitch.md R102, R103) -/

theorem pitchToFreq_reference {cfg : Config} (h : cfg.Lawful) :
    pitchToFreq cfg 232 = 440 * 2 ^ 28 / cfg.sampleRate := by
  rw [pitchToFreq_eq_floor h, realIncrement_reference, Nat.floor_div_eq_div]

theorem pitchToFreq_octave {cfg : Config} (h : cfg.Lawful) (q : Int) :
    pitchToFreq cfg (q + 48) = 2 * pitchToFreq cfg q ∨ pitchToFreq cfg (q + 48) = 2 * pitchToFreq cfg q + 1 := by
  have hge : 2 * pitchToFreq cfg q ≤ pitchToFreq cfg (q + 48) := by
    rw [pitchToFreq_eq_floor h, pitchToFreq_eq_floor h, realIncrement_octave]
    refine Nat.le_floor ?_
    push_cast
    gcongr
    exact Nat.floor_le (realIncrement_nonneg cfg q)
  have hlt : pitchToFreq cfg (q + 48) < 2 * (pitchToFreq cfg q + 1) := by
    rw [pitchToFreq_eq_floor h, pitchToFreq_eq_floor h, Nat.floor_lt (realIncrement_nonneg cfg _), realIncrement_octave]
    push_cast
    gcongr
    exact Nat.lt_floor_add_one _
  omega

theorem pitchToFreq_mono {cfg : Config} (h : cfg.Lawful) : Monotone (pitchToFreq cfg) := by
  intro q1 q2 hq
  rw [pitchToFreq_eq_floor h, pitchToFreq_eq_floor h]
  exact Nat.floor_mono (realIncrement_mono cfg hq)

theorem pitchToFreq_lt_iff {cfg : Config} (h : cfg.Lawful) (q : Int) :
    pitchToFreq cfg q < 2 ^ 28 ↔ (q : ℝ) < 232 + 48 * Real.logb 2 ((cfg.sampleRate : ℝ) / 440) := by
  rw [pitchToFreq_eq_floor h, Nat.floor_lt (realIncrement_nonneg cfg q), Nat.cast_pow, Nat.cast_ofNat,
    realIncrement_lt_iff h]

/-- By monotonicity, two neighbouring pitches with a bound between their values tell every pitch below it. -/
theorem pitchToFreq_lt_iff_le {cfg : Config} (h : cfg.Lawful) {bound : Nat} {last : Int}
    (hlast : pitchToFreq cfg last < bound) (hnext : bound ≤ pitchToFreq cfg (last + 1)) (q : Int) :
    pitchToFreq cfg q < bound ↔ q ≤ last := by
  constructor
  · intro hq
    by_contra hgt
    exact absurd hq (not_lt.mpr (hnext.trans (pitchToFreq_mono h (by omega))))
  · exact fun hq => (pitchToFreq_mono h hq).trans_lt hlast

/-- SAMPLE_RATE is the one parameter the converter depends on. -/
theorem pitchToFreq_congr {cfg cfg' : Config} (h : cfg.sampleRate = cfg'.sampleRate) :
    pitchToFreq cfg = pitchToFreq cfg' := by
  funext q
  rw [pitchToFreq, pitchToFreq, h]

/-- The values R102 and R103 name, at the default rate of 44100. -/
theorem pitchToFreq_default :
    pitchToFreq Config.default (-793) = 0 ∧ pitchToFreq Config.default (-792) = 1 ∧
    pitchToFreq Config.default 232 = 2678267 ∧
    pitchToFreq Config.default 551 = 268194054 ∧ pitchToFreq Config.default 552 = 272095026 := by
  decide +kernel

/-- Settles O28: each law is the real formula's, carried through the floor; the pitches that give 0 at 44100 are those
below 1, by monotonicity and the values at −793 and −792. -/
theorem converterLaws : Obligations.ConverterLaws := by
  unfold Obligations.ConverterLaws
  intro cfg h
  obtain ⟨hzero, hone, href, -, -⟩ := pitchToFreq_default
  refine ⟨pitchToFreq_reference h, fun hrate => ?_, pitchToFreq_octave h, pitchToFreq_mono h, fun hrate => ?_⟩
  · rw [pitchToFreq_congr (cfg' := Config.default) hrate, href]
  · rw [← pitchToFreq_congr (cfg := cfg) hrate] at hzero hone
    exact ⟨fun q => Nat.lt_one_iff.symm.trans (pitchToFreq_lt_iff_le h (hzero.trans_lt one_pos) hone.ge q), hone⟩

/-- Settles O31: the general range is `pitchToFreq_lt_iff`; at 44100 monotonicity leaves only 551 and 552 to evaluate. -/
theorem legalPitchRange : Obligations.LegalPitchRange := by
  unfold Obligations.LegalPitchRange
  intro cfg h
  refine ⟨pitchToFreq_lt_iff h, fun hrate => ?_⟩
  obtain ⟨-, -, -, hlast, hnext⟩ := pitchToFreq_default
  rw [← pitchToFreq_congr (cfg := cfg) hrate] at hlast hnext
  exact ⟨pitchToFreq_lt_iff_le h (hlast.trans_lt (by norm_num)) (hnext.symm ▸ by norm_num), hlast, hnext⟩

/-! ### The commands that load FREQ and PW (40_pitch.md R101, R104; 42_waveform_control.md R122, R123) -/

/-- A PITCH in range writes FREQ alone, with the increment as it is. -/
theorem exec_pitch_of_fits (s : State) (c : Chan) {q : BitVec 16} (hq : pitchToFreq s.cfg q.toInt < 2 ^ 28) :
    exec (.pitch c q) s =
      .next (s.setChan c { s.chan c with freq := BitVec.ofNat 28 (pitchToFreq s.cfg q.toInt) }) := by
  rw [exec_eq, afterExec_pitch]
  obtain ⟨-, h⟩ | ⟨hge, -⟩ := loadIncrement_cases c (pitchToFreq s.cfg (pitchOperand q)) s
  · rw [h, pitchOperand]
  · exact absurd hq (not_lt.mpr hge)

/-- Settles O29: in range the increment is loaded as it is (`exec_pitch_of_fits`), and 28 bits hold it. -/
theorem pitchLoadsTheIncrement : Obligations.PitchLoadsTheIncrement := by
  unfold Obligations.PitchLoadsTheIncrement
  intro s c q hq
  refine ⟨_, exec_pitch_of_fits s c hq, ?_⟩
  rw [State.chan_setChan_same]
  exact ⟨(BitVec.toNat_ofNat _ 28).trans (Nat.mod_eq_of_lt hq), onlyChannelBecomes_setChan s c _⟩

/-- Settles O32: each command is one write of its channel (`onlyChannelBecomes_setChan`), and PWADD's is a 28-bit sum. -/
theorem frequencyAndPulseWidthLoads : Obligations.FrequencyAndPulseWidthLoads := by
  unfold Obligations.FrequencyAndPulseWidthLoads
  intro s c v
  refine ⟨⟨_, rfl, onlyChannelBecomes_setChan s c _⟩, ⟨_, rfl, onlyChannelBecomes_setChan s c _⟩, _, rfl, ?_⟩
  rw [State.chan_setChan_same]
  exact ⟨BitVec.toNat_add _ _, onlyChannelBecomes_setChan s c _⟩

end Sys2Proof.Machine

/-! PROOFS. The envelope control family (41_envelope_control.md): what ADSR, GATE and ENVREL load, and how they and WAVE
act through the next sample. The envelope step is said once for a channel whose gate is off (`envStep_of_gate_off`) and
once for one whose gate is on (`envStep_of_gate_on`); a command and then a sample is that step on the registers the
command leaves (`sample_of_gate_off`, `sample_of_gate_on`). -/
namespace Sys2Proof.Machine

/-! ### The registers the envelope commands load (41_envelope_control.md R110, R112, R114) -/

theorem toNat_append_eq_add {m n : Nat} (x : BitVec m) (y : BitVec n) :
    (x ++ y).toNat = x.toNat * 2 ^ n + y.toNat := by
  rw [BitVec.toNat_append, ← Nat.shiftLeft_add_eq_or_of_lt y.isLt, Nat.shiftLeft_eq]

/-- Each nibble in its place (10_state.md R30). -/
theorem packAdsr_toNat (a d su r : BitVec 4) :
    (packAdsr a d su r).toNat = a.toNat * 2 ^ 12 + d.toNat * 2 ^ 8 + su.toNat * 2 ^ 4 + r.toNat := by
  unfold packAdsr
  simp only [toNat_append_eq_add]
  omega

/-- Settles O34: each command is one write of its channel (`onlyChannelBecomes_setChan`), and ADSR's nibbles add up in
their places (`packAdsr_toNat`). -/
theorem envelopeControlLoads : Obligations.EnvelopeControlLoads := by
  unfold Obligations.EnvelopeControlLoads
  intro s c a d su r b
  refine ⟨⟨_, rfl, ?_⟩, ⟨_, rfl, onlyChannelBecomes_setChan s c _⟩, _, rfl, onlyChannelBecomes_setChan s c _⟩
  rw [State.chan_setChan_same]
  exact ⟨packAdsr_toNat a d su r, onlyChannelBecomes_setChan s c _⟩

/-! ### LEVEL and ENVST after each action of the envelope (43_sample.md R132) -/

theorem level_le_maxLevel (r : ChannelRegs) : r.level.toNat ≤ maxLevel := Nat.le_of_lt_succ r.level.isLt

/-- A number up to the greatest level is a level as it is. -/
theorem toNat_ofNat_of_le_maxLevel {n : Nat} (h : n ≤ maxLevel) : (BitVec.ofNat 24 n).toNat = n :=
  (BitVec.toNat_ofNat n 24).trans (Nat.mod_eq_of_lt (Nat.lt_succ_of_le h))

theorem attackAction_level (inc : Nat) (r : ChannelRegs) :
    (attackAction inc r).level.toNat = min maxLevel (r.level.toNat + inc) := by
  rcases Nat.lt_or_ge (r.level.toNat + inc) maxLevel with h | h
  · rw [attackAction_below h, Nat.min_eq_right h.le]
    exact toNat_ofNat_of_le_maxLevel h.le
  · rw [attackAction_clamped h, Nat.min_eq_left h]
    exact toNat_ofNat_of_le_maxLevel le_rfl

theorem attackAction_envst (inc : Nat) {r : ChannelRegs} (h : r.envst = .attack) :
    (attackAction inc r).envst = if (attackAction inc r).level = 0xFFFFFF then .decay else .attack := by
  have htop : (attackAction inc r).level = 0xFFFFFF ↔ maxLevel ≤ r.level.toNat + inc := by
    rw [BitVec.toNat_eq, attackAction_level]
    exact min_eq_left_iff
  simp only [htop]
  split
  · next hge => rw [attackAction_clamped hge]
  · next hlt => rw [attackAction_below (Nat.lt_of_not_le hlt)]; exact h

theorem decayAction_level {dec sus : Nat} {r : ChannelRegs} (hsus : sus ≤ maxLevel) :
    (decayAction dec sus r).level.toNat = max sus (r.level.toNat - dec) := by
  have hl := level_le_maxLevel r
  rcases lt_or_ge (sus : Int) ((r.level.toNat : Int) - dec) with h | h
  · rw [decayAction_above h, Nat.max_eq_right (by omega)]
    exact toNat_ofNat_of_le_maxLevel (by omega)
  · rw [decayAction_clamped h, Nat.max_eq_left (by omega)]
    exact toNat_ofNat_of_le_maxLevel hsus

theorem decayAction_envst {dec sus : Nat} {r : ChannelRegs} (hsus : sus ≤ maxLevel) (h : r.envst = .decay) :
    (decayAction dec sus r).envst = if (decayAction dec sus r).level.toNat = sus then .sustain else .decay := by
  have hbottom : (decayAction dec sus r).level.toNat = sus ↔ (r.level.toNat : Int) - dec ≤ sus := by
    rw [decayAction_level hsus]
    omega
  simp only [hbottom]
  split
  · next hle => rw [decayAction_clamped hle]
  · next hgt => rw [decayAction_above (Int.lt_of_not_ge hgt)]; exact h

theorem sustainAction_level (sus : Nat) (r : ChannelRegs) : (sustainAction sus r).level = r.level := by
  by_cases h : r.level.toNat = sus
  · rw [sustainAction_at h]
  · rw [sustainAction_away h]

theorem sustainAction_envst (sus : Nat) {r : ChannelRegs} (h : r.envst = .sustain) :
    (sustainAction sus r).envst = if r.level.toNat = sus then .sustain else .attack := by
  split
  · next hat => rw [sustainAction_at hat]; exact h
  · next haway => rw [sustainAction_away haway]

theorem releaseAction_level (dec : Nat) (r : ChannelRegs) :
    (releaseAction dec r).level.toNat = r.level.toNat - dec :=
  toNat_ofNat_of_le_maxLevel ((Nat.sub_le _ _).trans (level_le_maxLevel r))

/-! ### The envelope step with the gate off and with the gate on -/

section
variable {cfg : Config} {r : ChannelRegs}

theorem envStep_of_gate_off (h : ¬GateIsOn r) :
    (envStep cfg r).envst = .release ∧ (envStep cfg r).level.toNat = r.level.toNat - releaseOf cfg r := by
  have htest : gateTest r = .release := by
    unfold gateTest
    rw [if_neg (mt (gateOn_iff r).mp h)]
  have hstep : envStep cfg r = releaseAction (releaseDecrement cfg r) { r with envst := .release } := by
    unfold envStep
    rw [htest]
  rw [hstep, releaseDecrement_eq]
  exact ⟨rfl, releaseAction_level _ _⟩

/-- With the gate on the sample takes the action of the state the envelope stands in, and RELEASE's is ATTACK's. -/
theorem envStep_of_gate_on (h : GateIsOn r) : OpenGateSample cfg r (envStep cfg r) := by
  have htest : gateTest r = if r.envst = .release then .attack else r.envst := by
    unfold gateTest
    rw [if_pos ((gateOn_iff r).mpr h)]
  constructor
  case attack =>
    intro hst
    have hstep : envStep cfg r = attackAction (attackOf cfg r) { r with envst := .attack } := by
      rw [← attackIncrement_eq]
      unfold envStep
      rcases hst with hst | hst <;> simp [htest, hst]
    rw [hstep]
    exact ⟨attackAction_level _ _, attackAction_envst _ rfl⟩
  case decay =>
    intro hst
    have hstep : envStep cfg r = decayAction (decayOf cfg r) (sustainOf r) { r with envst := .decay } := by
      rw [← decayDecrement_eq, ← sustainLevel_eq]
      unfold envStep
      simp [htest, hst]
    rw [hstep]
    exact ⟨decayAction_level (sustainOf_le r), decayAction_envst (sustainOf_le r) rfl⟩
  case sustain =>
    intro hst
    have hstep : envStep cfg r = sustainAction (sustainOf r) { r with envst := .sustain } := by
      rw [← sustainLevel_eq]
      unfold envStep
      simp [htest, hst]
    rw [hstep]
    exact ⟨sustainAction_level _ _, sustainAction_envst _ rfl⟩

/-- The envelope reads no register but LEVEL, ENVST and ADSR. -/
theorem OpenGateSample.congr {q t : ChannelRegs} (h : OpenGateSample cfg r t) (hlevel : q.level = r.level)
    (henvst : q.envst = r.envst) (hadsr : q.adsr = r.adsr) : OpenGateSample cfg q t := by
  obtain ⟨hattack, hdecay, hsustain⟩ := h
  simp only [attackOf, decayOf, sustainOf, ← hlevel, ← henvst, ← hadsr] at hattack hdecay hsustain
  exact ⟨hattack, hdecay, hsustain⟩

section
variable {t : ChannelRegs} (h : OpenGateSample cfg r t) (hst : r.envst = .release ∨ r.envst = .attack)
include h hst

theorem OpenGateSample.attack_below (hlt : r.level.toNat + attackOf cfg r < 0xFFFFFF) :
    t.envst = .attack ∧ t.level.toNat = r.level.toNat + attackOf cfg r := by
  obtain ⟨hlevel, henvst⟩ := h.attack hst
  rw [Nat.min_eq_right hlt.le] at hlevel
  have hne : t.level ≠ 0xFFFFFF := fun htop => hlt.ne (hlevel.symm.trans (congrArg BitVec.toNat htop))
  exact ⟨henvst.trans (if_neg hne), hlevel⟩

theorem OpenGateSample.attack_clamped (hge : 0xFFFFFF ≤ r.level.toNat + attackOf cfg r) :
    t.envst = .decay ∧ t.level.toNat = 0xFFFFFF := by
  obtain ⟨hlevel, henvst⟩ := h.attack hst
  rw [Nat.min_eq_left hge] at hlevel
  exact ⟨henvst.trans (if_pos (BitVec.eq_of_toNat_eq hlevel)), hlevel⟩

end

end

/-! ### A register write and then a sample -/

theorem execAll_sample_after {i : Instr} {s t : State} (h : exec i s = .next t) :
    execAll [i, .sample] s = .next (sampleStep t) := by
  unfold execAll
  rw [h]
  rfl

section
variable (s : State) (c : Chan) {r : ChannelRegs}

theorem sampleStep_setChan_level : ((sampleStep (s.setChan c r)).chan c).level = (envStep s.cfg r).level := by
  rw [sampleStep_chan, stepChannelRegs_level, State.setChan_cfg, State.chan_setChan_same]

theorem sampleStep_setChan_envst : ((sampleStep (s.setChan c r)).chan c).envst = (envStep s.cfg r).envst := by
  rw [sampleStep_chan, stepChannelRegs_envst, State.setChan_cfg, State.chan_setChan_same]

theorem sample_of_gate_off (h : ¬GateIsOn r) :
    ((sampleStep (s.setChan c r)).chan c).envst = .release ∧
      ((sampleStep (s.setChan c r)).chan c).level.toNat = r.level.toNat - releaseOf s.cfg r := by
  rw [sampleStep_setChan_envst, sampleStep_setChan_level]
  exact envStep_of_gate_off h

theorem sample_of_gate_on (h : GateIsOn r) : OpenGateSample s.cfg r ((sampleStep (s.setChan c r)).chan c) := by
  obtain ⟨hattack, hdecay, hsustain⟩ := envStep_of_gate_on (cfg := s.cfg) h
  rw [← sampleStep_setChan_level s c, ← sampleStep_setChan_envst s c] at hattack hdecay hsustain
  exact ⟨hattack, hdecay, hsustain⟩

end

/-- Writing a gate's own value changes nothing (41_envelope_control.md R113). -/
theorem setChan_gate_self {s : State} {c : Chan} {b : BitVec 1} (h : (s.chan c).gate = b) :
    s.setChan c { s.chan c with gate := b } = s := by
  subst h
  exact State.setChan_chan s c

/-- Settles O35: the write of GATE is the identity (`setChan_gate_self`), and the sample after ENVREL finds an open gate
in RELEASE, so it takes the ATTACK action. -/
theorem envrelRetriggersAnOpenGate : Obligations.EnvrelRetriggersAnOpenGate := by
  unfold Obligations.EnvrelRetriggersAnOpenGate
  intro s c hon
  refine ⟨⟨s, congrArg _ (setChan_gate_self hon.1), .of_eq rfl, rfl, rfl, rfl, rfl⟩, _, execAll_sample_after rfl, ?_⟩
  have hsample := sample_of_gate_on s c (r := { s.chan c with envst := .release }) hon
  exact ⟨hsample.attack_below (.inl rfl), hsample.attack_clamped (.inl rfl)⟩

/-! ### The rates and the sustain level of a new ADSR (10_state.md R31) -/

section
variable {q : ChannelRegs} {a d su r : BitVec 4} (cfg : Config) (h : q.adsr = packAdsr a d su r)
include h

theorem attackOf_packAdsr : attackOf cfg q = (cfg.attackTable.get a.toFin).toNat := by
  obtain ⟨ha, -, -, -⟩ := adsr_nibbles_packAdsr a d su r
  rw [← attackIncrement_eq, attackIncrement, h, ha]

theorem decayOf_packAdsr : decayOf cfg q = (cfg.releaseTable.get d.toFin).toNat := by
  obtain ⟨-, hd, -, -⟩ := adsr_nibbles_packAdsr a d su r
  rw [← decayDecrement_eq, decayDecrement, h, hd]

theorem releaseOf_packAdsr : releaseOf cfg q = (cfg.releaseTable.get r.toFin).toNat := by
  obtain ⟨-, -, -, hr⟩ := adsr_nibbles_packAdsr a d su r
  rw [← releaseDecrement_eq, releaseDecrement, h, hr]

theorem sustainOf_packAdsr : sustainOf q = su.toNat * 0x111111 := by
  obtain ⟨-, -, hs, -⟩ := adsr_nibbles_packAdsr a d su r
  rw [← sustainLevel_eq, sustainLevel, h, hs]

end

/-- Settles O36: the sample after ADSR is the sample of a channel with the new register, whose rates and sustain level
are those of the new nibbles. -/
theorem newAdsrActsAtTheNextSample : Obligations.NewAdsrActsAtTheNextSample := by
  unfold Obligations.NewAdsrActsAtTheNextSample
  intro s c a d su r
  refine ⟨_, execAll_sample_after rfl, ?_⟩
  have hadsr : { s.chan c with adsr := packAdsr a d su r }.adsr = packAdsr a d su r := rfl
  have hoff := sample_of_gate_off s c (r := { s.chan c with adsr := packAdsr a d su r })
  have hon := sample_of_gate_on s c (r := { s.chan c with adsr := packAdsr a d su r })
  refine ⟨fun h => ?_, fun h hst => ?_, fun h hst => ?_, fun h hst => ?_⟩
  · rw [← releaseOf_packAdsr s.cfg hadsr]
    exact hoff h
  · rw [← attackOf_packAdsr s.cfg hadsr]
    exact ((hon h).attack (.inr hst)).1
  · obtain ⟨hlevel, henvst⟩ := (hon h).decay hst
    rw [sustainOf_packAdsr hadsr] at hlevel henvst
    rw [decayOf_packAdsr s.cfg hadsr] at hlevel
    refine ⟨hlevel, fun hle => henvst.trans (if_pos (hlevel.trans ?_))⟩
    exact Nat.max_eq_left ((Nat.sub_le _ _).trans hle)
  · obtain ⟨hlevel, henvst⟩ := (hon h).sustain hst
    rw [sustainOf_packAdsr hadsr] at henvst
    exact ⟨hlevel, fun hne => henvst.trans (if_neg (Ne.symm hne)), fun heq => henvst.trans (if_pos heq.symm)⟩

/-! ### The gate opened and closed (41_envelope_control.md R113, 42_waveform_control.md R121) -/

theorem exec_wave_of_legal (s : State) (c : Chan) {flags : BitVec 8} (h : flags.getLsbD 3 = false) :
    exec (.wave c flags) s = .next (s.setChan c (writeWaveReg (s.chan c) flags)) := by
  rw [exec_eq, afterExec_wave, h]
  rfl

/-- The flag GATE is no reserved bit, so WAVE loads it as it is. -/
theorem writeWaveReg_getLsbD_zero (r : ChannelRegs) (flags : BitVec 8) :
    (writeWaveReg r flags).wave.getLsbD 0 = flags.getLsbD 0 := by
  simp [writeWaveReg, waveMask]

/-- Settles O37: each command is a write of GATE or WAVE, and the sample after it sees the gate that is then off
(`sample_of_gate_off`) or on (`sample_of_gate_on`). -/
theorem theGateActsAtTheNextSample : Obligations.TheGateActsAtTheNextSample := by
  unfold Obligations.TheGateActsAtTheNextSample
  intro s c flags hlegal
  have hflag := writeWaveReg_getLsbD_zero (s.chan c) flags
  refine ⟨⟨_, execAll_sample_after rfl, ?_⟩, ⟨_, execAll_sample_after (exec_wave_of_legal s c hlegal), ?_, ?_⟩,
    _, execAll_sample_after rfl, ?_, ?_⟩
  · exact sample_of_gate_off s c (r := { s.chan c with gate := 0 }) fun ⟨hgate, _⟩ =>
      absurd (show (0 : BitVec 1) = 1 from hgate) (by decide)
  · intro hclosed
    exact sample_of_gate_off s c (r := writeWaveReg (s.chan c) flags) fun ⟨_, hopen⟩ =>
      Bool.false_ne_true ((hflag.trans hclosed).symm.trans hopen)
  · intro hopen hgate
    have hsample := sample_of_gate_on s c (r := writeWaveReg (s.chan c) flags) ⟨hgate, hflag.trans hopen⟩
    exact hsample.congr rfl rfl rfl
  · intro hopen
    have hsample := sample_of_gate_on s c (r := { s.chan c with gate := 1 }) ⟨rfl, hopen⟩
    exact hsample.congr rfl rfl rfl
  · intro hgate
    rw [setChan_gate_self hgate]
    rfl

end Sys2Proof.Machine

/-! PROOFS. The waveform control family (42_waveform_control.md): WAVE with legal flags is one register write, since the
bits that exist (`waveMask`) hold every legal value as it is; with bit 3 set it raises RESERVED_FIELD and no more. -/
namespace Sys2Proof.Machine

/-- Bit 3 is the only bit of WAVE that does not exist (10_state.md R33). -/
theorem waveMask_getLsbD : ∀ i < 8, waveMask.getLsbD i = decide (i ≠ 3) := by decide

theorem and_waveMask_of_legal {flags : BitVec 8} (h : flags.getLsbD 3 = false) : flags &&& waveMask = flags := by
  refine BitVec.eq_of_getLsbD_eq fun i hi => ?_
  rw [BitVec.getLsbD_and, waveMask_getLsbD i hi]
  by_cases h3 : i = 3
  · rw [h3, h, Bool.false_and]
  · rw [decide_eq_true h3, Bool.and_true]

theorem writeWaveReg_of_legal (r : ChannelRegs) {flags : BitVec 8} (h : flags.getLsbD 3 = false) :
    writeWaveReg r flags = { r with wave := flags } := by
  rw [writeWaveReg, and_waveMask_of_legal h]

theorem exec_wave_of_reserved (s : State) (c : Chan) {flags : BitVec 8} (h : flags.getLsbD 3 = true) :
    exec (.wave c flags) s = .next (raiseFault .reservedField s) := by
  rw [exec_eq, afterExec_wave, if_pos h]

theorem PortsSame.raiseFault (k : FaultCode) (s : State) : PortsSame s (raiseFault k s) :=
  ⟨raiseFault_cfg k s, raiseFault_input k s, raiseFault_samples k s, raiseFault_reads k s⟩

/-- Settles O33: legal flags are one write of the channel, as they are (`writeWaveReg_of_legal`); with bit 3 set the
command is a fault alone (`exec_wave_of_reserved`), and FAULT takes its code only over 0 (`raiseFault_fault`). -/
theorem waveLoadsTheFlags : Obligations.WaveLoadsTheFlags := by
  unfold Obligations.WaveLoadsTheFlags
  intro s c flags
  refine ⟨fun hlegal => ⟨_, exec_wave_of_legal s c hlegal, ?_⟩, fun hreserved =>
    ⟨_, exec_wave_of_reserved s c hreserved, raiseFault_chan _ s, fun hclean => ?_, fun hkept => ?_,
      raiseFault_out _ s, raiseFault_rdata _ s, .raiseFault _ s⟩⟩
  · rw [writeWaveReg_of_legal _ hlegal]
    exact onlyChannelBecomes_setChan s c _
  · rw [raiseFault_fault, if_pos hclean]
    rfl
  · rw [raiseFault_fault, if_neg hkept]

end Sys2Proof.Machine

/-! PROOFS. The sample family (43_sample.md), envelopes: the registers SAMPLE leaves alone, and LEVEL and ENVST of every
channel after one sample (`sampleStep_of_gate_off`, `sampleStep_of_gate_on`) and after any number of samples. -/
namespace Sys2Proof.Machine

/-! ### What SAMPLE leaves alone (43_sample.md R130) -/

section
variable (s : State) (c : Chan)

theorem sampleStep_freq : ((sampleStep s).chan c).freq = (s.chan c).freq := by
  rw [sampleStep_chan, stepChannelRegs_freq]

theorem sampleStep_pw : ((sampleStep s).chan c).pw = (s.chan c).pw := by
  rw [sampleStep_chan, stepChannelRegs_pw]

theorem sampleStep_wave : ((sampleStep s).chan c).wave = (s.chan c).wave := by
  rw [sampleStep_chan, stepChannelRegs_wave]

theorem sampleStep_gate : ((sampleStep s).chan c).gate = (s.chan c).gate := by
  rw [sampleStep_chan, stepChannelRegs_gate]

theorem sampleStep_adsr : ((sampleStep s).chan c).adsr = (s.chan c).adsr := by
  rw [sampleStep_chan, stepChannelRegs_adsr]

theorem sampleStep_active : ((sampleStep s).chan c).active = (s.chan c).active := by
  rw [sampleStep_chan, stepChannelRegs_active]

end

/-- Settles O38: the global registers by `sampleStep_samples` and its like, each channel register by `sampleStep_freq`
and its like. -/
theorem sampleFrame : Obligations.SampleFrame := by
  unfold Obligations.SampleFrame
  intro s
  exact ⟨_, rfl, sampleStep_samples s, sampleStep_fault s, sampleStep_rdata s, sampleStep_reads s, sampleStep_cfg s,
    sampleStep_input s, fun c => ⟨sampleStep_freq s c, sampleStep_pw s c, sampleStep_wave s c, sampleStep_gate s c,
      sampleStep_adsr s c, sampleStep_active s c⟩⟩

/-! ### LEVEL and ENVST after a sample (43_sample.md R132) -/

section
variable {s : State} {c : Chan}

theorem sampleStep_of_gate_off (h : ¬GateIsOn (s.chan c)) :
    ((sampleStep s).chan c).envst = .release ∧
      ((sampleStep s).chan c).level.toNat = (s.chan c).level.toNat - releaseOf s.cfg (s.chan c) := by
  simpa only [State.setChan_chan] using sample_of_gate_off s c h

theorem sampleStep_of_gate_on (h : GateIsOn (s.chan c)) :
    OpenGateSample s.cfg (s.chan c) ((sampleStep s).chan c) := by
  simpa only [State.setChan_chan] using sample_of_gate_on s c h

end

section
variable {cfg : Config} {r t : ChannelRegs} (h : OpenGateSample cfg r t)
include h

theorem OpenGateSample.decay_clamped (hst : r.envst = .decay)
    (hle : (r.level.toNat : Int) - decayOf cfg r ≤ sustainOf r) : t.envst = .sustain ∧ t.level.toNat = sustainOf r := by
  obtain ⟨hlevel, henvst⟩ := h.decay hst
  rw [Nat.max_eq_left (by omega)] at hlevel
  exact ⟨henvst.trans (if_pos hlevel), hlevel⟩

theorem OpenGateSample.decay_above (hst : r.envst = .decay)
    (hlt : (sustainOf r : Int) < (r.level.toNat : Int) - decayOf cfg r) :
    t.envst = .decay ∧ (t.level.toNat : Int) = r.level.toNat - decayOf cfg r := by
  obtain ⟨hlevel, henvst⟩ := h.decay hst
  exact ⟨henvst.trans (if_neg (by omega)), by omega⟩

theorem OpenGateSample.sustain_cases (hst : r.envst = .sustain) : t.level = r.level ∧
    (r.level.toNat ≠ sustainOf r → t.envst = .attack) ∧ (r.level.toNat = sustainOf r → t.envst = .sustain) := by
  obtain ⟨hlevel, henvst⟩ := h.sustain hst
  exact ⟨hlevel, fun hne => henvst.trans (if_neg hne), fun heq => henvst.trans (if_pos heq)⟩

/-- Whichever action an open gate's sample takes, it does not end in RELEASE (43_sample.md R133 (g)). -/
theorem OpenGateSample.envst_ne_release : t.envst ≠ .release := by
  cases hst : r.envst with
  | release => rw [(h.attack (.inl hst)).2]; split <;> decide
  | attack => rw [(h.attack (.inr hst)).2]; split <;> decide
  | decay => rw [(h.decay hst).2]; split <;> decide
  | sustain => rw [(h.sustain hst).2]; split <;> decide

end

/-- Settles O39: a closed gate's sample is the RELEASE action (`sampleStep_of_gate_off`), an open gate's the action of
the state it stands in (`sampleStep_of_gate_on`), on both sides of each clamp. -/
theorem sampleStepsEveryEnvelope : Obligations.SampleStepsEveryEnvelope := by
  unfold Obligations.SampleStepsEveryEnvelope
  refine fun s => ⟨_, rfl, fun c => ⟨sampleStep_of_gate_off, fun hon hst => ?_, fun hon hst => ?_, fun hon hst => ?_⟩⟩
  · exact ⟨(sampleStep_of_gate_on hon).attack_below hst, (sampleStep_of_gate_on hon).attack_clamped hst⟩
  · exact ⟨(sampleStep_of_gate_on hon).decay_clamped hst, (sampleStep_of_gate_on hon).decay_above hst⟩
  · exact (sampleStep_of_gate_on hon).sustain_cases hst

/-- Settles O49: DECAY's level is a maximum with the sustain level, which for S = 15 no level exceeds; an open gate's
sample never ends in RELEASE (`OpenGateSample.envst_ne_release`), a closed gate's always does. -/
theorem envelopeLaws : Obligations.EnvelopeLaws := by
  unfold Obligations.EnvelopeLaws
  refine fun s => ⟨_, rfl, fun c => ⟨fun hon hst => ?_, fun hon hst h15 => ?_, fun hrel hon => ?_, fun hoff => ?_⟩⟩
  · rw [((sampleStep_of_gate_on hon).decay hst).1]
    exact Nat.le_max_left _ _
  · have htop : sustainOf (s.chan c) = maxLevel := by rw [sustainOf, h15]; rfl
    have hle := level_le_maxLevel (s.chan c)
    obtain ⟨henvst, hlevel⟩ := (sampleStep_of_gate_on hon).decay_clamped hst (by omega)
    exact ⟨henvst, BitVec.eq_of_toNat_eq (hlevel.trans htop)⟩
  · exact (sampleStep_of_gate_on hon).envst_ne_release hrel
  · exact (sampleStep_of_gate_off hoff).1

/-! ### The envelope over any number of samples (43_sample.md R133) -/

/-- RENDER k completes, and is k sample steps (30_encoding.md R81). -/
theorem execAll_render (k : Nat) (s : State) : execAll (render k) s = .next (sampleStep^[k] s) := by
  induction k generalizing s with
  | zero => rfl
  | succ k ih => exact ih (sampleStep s)

/-- What the envelope of channel `c` reads and no sample writes: the parameters, the gate and ADSR. -/
structure EnvelopeInputsSame (c : Chan) (s t : State) : Prop where
  cfg : t.cfg = s.cfg
  wave : (t.chan c).wave = (s.chan c).wave
  gate : (t.chan c).gate = (s.chan c).gate
  adsr : (t.chan c).adsr = (s.chan c).adsr

theorem EnvelopeInputsSame.sampleStep {c : Chan} {s t : State} (h : EnvelopeInputsSame c s t) :
    EnvelopeInputsSame c s (sampleStep t) where
  cfg := (sampleStep_cfg t).trans h.cfg
  wave := (sampleStep_wave t c).trans h.wave
  gate := (sampleStep_gate t c).trans h.gate
  adsr := (sampleStep_adsr t c).trans h.adsr

theorem envelopeInputsSame_iterate (c : Chan) (s : State) (k : Nat) : EnvelopeInputsSame c s (sampleStep^[k] s) := by
  induction k with
  | zero => exact ⟨rfl, rfl, rfl, rfl⟩
  | succ k ih =>
    rw [Function.iterate_succ_apply']
    exact ih.sampleStep

section
variable {c : Chan} {s t : State} (h : EnvelopeInputsSame c s t)
include h

theorem EnvelopeInputsSame.gateIsOn_iff : GateIsOn (t.chan c) ↔ GateIsOn (s.chan c) := by
  rw [GateIsOn, h.gate, h.wave]

theorem EnvelopeInputsSame.attackOf_eq : attackOf t.cfg (t.chan c) = attackOf s.cfg (s.chan c) := by
  rw [attackOf, h.cfg, h.adsr, attackOf]

theorem EnvelopeInputsSame.releaseOf_eq : releaseOf t.cfg (t.chan c) = releaseOf s.cfg (s.chan c) := by
  rw [releaseOf, h.cfg, h.adsr, releaseOf]

theorem EnvelopeInputsSame.sustainOf_eq : sustainOf (t.chan c) = sustainOf (s.chan c) := by
  rw [sustainOf, h.adsr, sustainOf]

end

theorem attackOf_pos {cfg : Config} (h : cfg.Lawful) (r : ChannelRegs) : 0 < attackOf cfg r :=
  Nat.pos_of_ne_zero fun h0 => h.attack_ne_zero (Fin.ofNat 16 (r.adsr.toNat / 2 ^ 12)) (BitVec.eq_of_toNat_eq h0)

theorem releaseOf_pos {cfg : Config} (h : cfg.Lawful) (r : ChannelRegs) : 0 < releaseOf cfg r :=
  Nat.pos_of_ne_zero fun h0 => h.release_ne_zero (Fin.ofNat 16 r.adsr.toNat) (BitVec.eq_of_toNat_eq h0)

/-- An attack that does not reach the top rises by the increment at each sample; it may stand in RELEASE only before the
first one. -/
theorem attack_iterate {s : State} {c : Chan} (hon : GateIsOn (s.chan c))
    (hst : (s.chan c).envst = .release ∨ (s.chan c).envst = .attack) (k : Nat)
    (hlt : (s.chan c).level.toNat + k * attackOf s.cfg (s.chan c) < 0xFFFFFF) :
    ((k = 0 ∧ ((sampleStep^[k] s).chan c).envst = .release) ∨ ((sampleStep^[k] s).chan c).envst = .attack) ∧
      ((sampleStep^[k] s).chan c).level.toNat = (s.chan c).level.toNat + k * attackOf s.cfg (s.chan c) := by
  induction k with
  | zero => exact ⟨hst.imp_left fun h => ⟨rfl, h⟩, by simp⟩
  | succ k ih =>
    rw [Nat.add_one_mul] at hlt ⊢
    obtain ⟨henvst, hlevel⟩ := ih (by omega)
    have hsame := envelopeInputsSame_iterate c s k
    have hstep := (sampleStep_of_gate_on (hsame.gateIsOn_iff.mpr hon)).attack_below (henvst.imp_left And.right)
      (by rw [hlevel, hsame.attackOf_eq]; omega)
    rw [Function.iterate_succ_apply']
    rw [hlevel, hsame.attackOf_eq] at hstep
    exact ⟨.inr hstep.1, by omega⟩

/-- Settles O46: before sample n the attack rises without a clamp (`attack_iterate`); the sample after n − 1 of them
clamps, since n increments reach the top. -/
theorem attackReachesTheTopOnTime : Obligations.AttackReachesTheTopOnTime := by
  unfold Obligations.AttackReachesTheTopOnTime
  intro s c n hlawful hon hst htop hn
  have hinc := attackOf_pos hlawful (s.chan c)
  have hceil (k : Nat) : n ≤ k ↔ 0xFFFFFF - (s.chan c).level.toNat ≤ k * attackOf s.cfg (s.chan c) := by
    rw [hn, ← Nat.ceilDiv_eq_add_pred_div, ceilDiv_le_iff_le_mul hinc, Nat.mul_comm]
  have hbelow (k : Nat) (hk : k < n) : (s.chan c).level.toNat + k * attackOf s.cfg (s.chan c) < 0xFFFFFF := by
    have := (hceil k).not.mp (by omega)
    omega
  constructor
  · intro k hpos hk
    obtain ⟨henvst, hlevel⟩ := attack_iterate hon hst k (hbelow k hk)
    exact ⟨_, execAll_render k s, henvst.resolve_left (fun h0 => by omega), hlevel⟩
  · obtain ⟨m, rfl⟩ : ∃ m, n = m + 1 := Nat.exists_eq_add_one.mpr
      (Nat.pos_of_ne_zero fun h0 => by have := (hceil 0).mp h0.le; omega)
    obtain ⟨henvst, hlevel⟩ := attack_iterate hon hst m (hbelow m (Nat.lt_succ_self m))
    have hreach := (hceil (m + 1)).mp le_rfl
    rw [Nat.add_one_mul] at hreach
    have hsame := envelopeInputsSame_iterate c s m
    refine ⟨_, execAll_render _ s, ?_⟩
    rw [Function.iterate_succ_apply']
    exact (sampleStep_of_gate_on (hsame.gateIsOn_iff.mpr hon)).attack_clamped (henvst.imp_left And.right)
      (by rw [hlevel, hsame.attackOf_eq]; omega)

theorem release_iterate_level {s : State} {c : Chan} (hoff : ¬GateIsOn (s.chan c)) (k : Nat) :
    ((sampleStep^[k] s).chan c).level.toNat = (s.chan c).level.toNat - k * releaseOf s.cfg (s.chan c) := by
  induction k with
  | zero => simp
  | succ k ih =>
    have hsame := envelopeInputsSame_iterate c s k
    rw [Function.iterate_succ_apply', (sampleStep_of_gate_off (mt hsame.gateIsOn_iff.mp hoff)).2, ih,
      hsame.releaseOf_eq, Nat.sub_sub, Nat.add_one_mul]

/-- Settles O47: k decrements are subtracted down to 0 (`release_iterate_level`), and they reach 0 when k is at least
the quotient rounded up. -/
theorem releaseFallsToZeroAndStays : Obligations.ReleaseFallsToZeroAndStays := by
  unfold Obligations.ReleaseFallsToZeroAndStays
  intro s c k hlawful hoff hk
  have hlevel := release_iterate_level hoff k
  refine ⟨_, execAll_render k s, ?_, hlevel, ?_⟩
  · obtain ⟨m, rfl⟩ := Nat.exists_eq_add_one.mpr hk
    rw [Function.iterate_succ_apply']
    exact (sampleStep_of_gate_off (mt (envelopeInputsSame_iterate c s m).gateIsOn_iff.mp hoff)).1
  · rw [← Nat.ceilDiv_eq_add_pred_div, ceilDiv_le_iff_le_mul (releaseOf_pos hlawful _), BitVec.toNat_eq, hlevel,
      Nat.mul_comm]
    exact Nat.sub_eq_zero_iff_le

/-- Settles O48: the SUSTAIN action at the sustain level changes nothing, and no sample changes that level. -/
theorem sustainHolds : Obligations.SustainHolds := by
  unfold Obligations.SustainHolds
  intro s c k hon hst hlevel
  refine ⟨_, execAll_render k s, ?_⟩
  induction k with
  | zero => exact ⟨hst, rfl⟩
  | succ k ih =>
    obtain ⟨henvstK, hlevelK⟩ := ih
    have hsame := envelopeInputsSame_iterate c s k
    obtain ⟨hkept, -, hsustain⟩ := (sampleStep_of_gate_on (hsame.gateIsOn_iff.mpr hon)).sustain_cases henvstK
    rw [Function.iterate_succ_apply']
    exact ⟨hsustain (by rw [hlevelK, hlevel, hsame.sustainOf_eq]), hkept.trans hlevelK⟩

end Sys2Proof.Machine

/-! PROOFS. The sample family (43_sample.md), oscillators: PHASE after the phase step and hard sync, and the clock of
the noise register. The two cases of a channel's phase are said once (`nextPhase_of_synced`,
`nextPhase_of_not_synced`). -/
namespace Sys2Proof.Machine

/-! ### PHASE after a sample (43_sample.md R134, R135) -/

theorem syncTest_iff (p r : ChannelRegs) : (flagSync r && wrapTest p) = true ↔ SyncedBy p r := by
  simp [flagSync, wrapTest, SyncedBy]

section
variable {p r : ChannelRegs}

/-- A predecessor phase below its increment scales to a phase below the channel's own (43_sample.md R136 (b)). -/
theorem syncedPhase_lt (h : p.phase.toNat < p.freq.toNat) (hf : 0 < r.freq.toNat) :
    p.phase.toNat * r.freq.toNat / p.freq.toNat < r.freq.toNat :=
  Nat.div_lt_of_lt_mul (Nat.mul_lt_mul_of_pos_right h hf)

theorem nextPhase_of_synced (h : SyncedBy p r) :
    (nextPhase p r).toNat = p.phase.toNat * r.freq.toNat / p.freq.toNat := by
  have heq : nextPhase p r = BitVec.ofNat 28 (p.phase.toNat * r.freq.toNat / p.freq.toNat) := by
    unfold nextPhase hardSync
    rw [if_pos ((syncTest_iff p (phaseStep r)).mpr h)]
    rfl
  rw [heq, BitVec.toNat_ofNat, Nat.mod_eq_of_lt]
  rcases Nat.eq_zero_or_pos r.freq.toNat with h0 | hf
  · simp [h0]
  · exact (syncedPhase_lt h.2 hf).trans r.freq.isLt

theorem nextPhase_of_not_synced (h : ¬SyncedBy p r) :
    (nextPhase p r).toNat = (r.phase.toNat + r.freq.toNat) % 2 ^ 28 := by
  have heq : nextPhase p r = r.phase + r.freq := by
    unfold nextPhase hardSync
    rw [if_neg (mt (syncTest_iff p (phaseStep r)).mp h)]
    rfl
  rw [heq, BitVec.toNat_add]

/-- Without sync the new phase is below the increment exactly when the sum wrapped (43_sample.md R136 (e)). -/
theorem nextPhase_lt_freq_iff (h : ¬SyncedBy p r) :
    (nextPhase p r).toNat < r.freq.toNat ↔ 2 ^ 28 ≤ r.phase.toNat + r.freq.toNat := by
  have hphase := r.phase.isLt
  have hfreq := r.freq.isLt
  rw [nextPhase_of_not_synced h]
  omega

end

theorem sampleStep_phase (s : State) (c : Chan) :
    ((sampleStep s).chan c).phase = nextPhase (seenPred s (sampleStep s) c) (s.chan c) := by
  rw [sampleStep_chan, stepChannelRegs_phase]

/-- Settles O40: the two cases of `nextPhase`, with the predecessor that `sampleStep_chan` names. -/
theorem sampleStepsEveryPhase : Obligations.SampleStepsEveryPhase := by
  unfold Obligations.SampleStepsEveryPhase
  refine fun s => ⟨_, rfl, fun c => ?_⟩
  rw [sampleStep_phase]
  exact ⟨nextPhase_of_synced, nextPhase_of_not_synced⟩

/-! ### Hard-sync corner cases (43_sample.md R136) -/

/-- Every channel but channel 0 sees its predecessor as this sample has stepped it (43_sample.md R131). -/
theorem seenPred_of_ne_c0 (s t : State) {d : Chan} (h : d ≠ .c0) : seenPred s t d = t.chan (pred d) := by
  cases d with
  | c0 => exact absurd rfl h
  | c1 | c2 | c3 => rfl

theorem not_syncedBy_of_freq_zero {p : ChannelRegs} (h : p.freq = 0) (r : ChannelRegs) : ¬SyncedBy p r := by
  rintro ⟨-, hlt⟩
  rw [h] at hlt
  exact Nat.not_lt_zero _ hlt

/-- Settles O41: a synced phase is below the channel's own increment (`syncedPhase_lt`), which is the wrap test that its
successor makes of it in the same sample (`seenPred_of_ne_c0`). -/
theorem hardSyncCornerCases : Obligations.HardSyncCornerCases := by
  unfold Obligations.HardSyncCornerCases
  refine fun s => ⟨_, rfl, fun c => ?_⟩
  rw [sampleStep_phase]
  have hbelow (h : SyncedBy (seenPred s (sampleStep s) c) (s.chan c)) (hf : 0 < (s.chan c).freq.toNat) :
      (nextPhase (seenPred s (sampleStep s) c) (s.chan c)).toNat < (s.chan c).freq.toNat := by
    rw [nextPhase_of_synced h]
    exact syncedPhase_lt h.2 hf
  refine ⟨fun h0 => nextPhase_of_not_synced (not_syncedBy_of_freq_zero h0 _), hbelow, fun h h0 => ?_,
    fun d hd hne h hf hsync => ?_, nextPhase_lt_freq_iff⟩
  · apply BitVec.eq_of_toNat_eq
    rw [nextPhase_of_synced h, h0]
    simp
  · have hseen : seenPred s (sampleStep s) d = (sampleStep s).chan c := by rw [seenPred_of_ne_c0 s _ hne, hd]
    have hwrap : SyncedBy ((sampleStep s).chan c) (s.chan d) := by
      refine ⟨hsync, ?_⟩
      rw [sampleStep_phase, sampleStep_freq]
      exact hbelow h hf
    rw [sampleStep_phase s d, hseen, nextPhase_of_synced hwrap, sampleStep_phase s c, sampleStep_freq]

/-! ### LFSR after a sample (43_sample.md R137) -/

theorem noisePhase_eq_iff (a b : BitVec 28) : noisePhase a = noisePhase b ↔ a.toNat / 2 ^ 23 = b.toNat / 2 ^ 23 := by
  have ha := a.isLt
  have hb := b.isLt
  rw [BitVec.toNat_eq]
  simp only [noisePhase, BitVec.extractLsb'_toNat, Nat.shiftRight_eq_div_pow]
  omega

/-- A clock as arithmetic: twice the value plus the feedback bit, in 23 bits. -/
theorem lfsrNext_toNat (v : BitVec 23) :
    (lfsrNext v).toNat = (2 * v.toNat + (v.getLsbD 22 ^^ v.getLsbD 17).toNat) % 2 ^ 23 := by
  have hbit := (v.getLsbD 22 ^^ v.getLsbD 17).toNat_lt
  rw [lfsrNext, toNat_append_eq_add, BitVec.extractLsb'_toNat, BitVec.toNat_ofBool, Nat.shiftRight_zero]
  omega

/-- Settles O42: the clock's test is on the top five bits of PHASE before and after the sample (`noisePhase_eq_iff`),
and one clock is `lfsrNext_toNat`. -/
theorem sampleClocksEveryNoiseRegister : Obligations.SampleClocksEveryNoiseRegister := by
  unfold Obligations.SampleClocksEveryNoiseRegister
  refine fun s => ⟨_, rfl, fun c => ?_⟩
  rw [← noisePhase_eq_iff, sampleStep_chan, stepChannelRegs_lfsr, stepChannelRegs_phase]
  refine ⟨fun hmoved => ?_, fun hsame => ?_⟩
  · rw [nextLfsr, if_pos (mt (noisePhase_eq_iff _ _).mp hmoved), lfsrNext_toNat]
  · rw [nextLfsr, if_neg (not_not_intro hsame)]

end Sys2Proof.Machine

/-! PROOFS. The sample family (43_sample.md), the noise register's cycle (R143 (a), (b)). One clock satisfies
x^23 = x^5 + 1 over the field of two elements, and so does every repeated square of it; so a power of the clock is a
polynomial of low degree in the clock (`iterate_eq_polyEval`), which is small enough to evaluate at the seed. The period
of the seed then divides 2^23 − 1 = 47 × 178481 and neither factor; and a cycle of that length holds every nonzero
value. -/
namespace Sys2Proof.Machine

/-! ### The clock is a bijection (43_sample.md R143 (a)) -/

theorem getLsbD_eq_lfsrNext (v : BitVec 23) {i : Nat} (hi : i ≤ 21) :
    v.getLsbD i = (lfsrNext v).getLsbD (i + 1) := by
  rw [lfsrNext_getLsbD, if_neg (Nat.succ_ne_zero i), decide_eq_true (by omega : i + 1 < 23)]
  rfl

theorem getLsbD_top_eq_lfsrNext (v : BitVec 23) :
    v.getLsbD 22 = ((lfsrNext v).getLsbD 0 ^^ (lfsrNext v).getLsbD 18) := by
  rw [← getLsbD_eq_lfsrNext v (i := 17) (by omega), lfsrNext_getLsbD, if_pos rfl, Bool.xor_assoc, Bool.xor_self,
    Bool.xor_false]

theorem lfsrNext_injective : Function.Injective lfsrNext := by
  intro u v h
  refine BitVec.eq_of_getLsbD_eq fun i hi => ?_
  rcases Nat.lt_or_eq_of_le (Nat.le_of_lt_succ hi) with hlt | rfl
  · rw [getLsbD_eq_lfsrNext u (by omega), h, ← getLsbD_eq_lfsrNext v (by omega)]
  · rw [getLsbD_top_eq_lfsrNext u, h, ← getLsbD_top_eq_lfsrNext v]

/-- Settles O50: the old bits are found in the new value, so no two values have one next value, and the values are
finitely many. -/
theorem noiseStepIsABijection : Obligations.NoiseStepIsABijection := by
  unfold Obligations.NoiseStepIsABijection
  refine ⟨Finite.injective_iff_bijective.mp lfsrNext_injective, fun v => ⟨eq_zero_of_lfsrNext_eq_zero, ?_⟩,
    fun v => ⟨fun i => getLsbD_eq_lfsrNext v, getLsbD_top_eq_lfsrNext v⟩⟩
  rintro rfl
  decide

/-! ### The clock's equation x^23 = x^5 + 1 -/

/-- A map on noise values that is additive over the field of two elements and satisfies x^23 = x^5 + 1. -/
structure ClockLike (f : BitVec 23 → BitVec 23) : Prop where
  xor : ∀ u v, f (u ^^^ v) = f u ^^^ f v
  taps : ∀ v, f^[23] v = f^[5] v ^^^ v

/-- k clocks move every bit up by k. -/
theorem lfsrNext_iterate_getLsbD (v : BitVec 23) (k i : Nat) (h : i + k < 23) :
    (lfsrNext^[k] v).getLsbD (i + k) = v.getLsbD i := by
  induction k with
  | zero => rfl
  | succ k ih =>
    rw [Function.iterate_succ_apply', ← Nat.add_assoc, ← getLsbD_eq_lfsrNext _ (by omega)]
    exact ih (by omega)

theorem lfsrNext_xor (u v : BitVec 23) : lfsrNext (u ^^^ v) = lfsrNext u ^^^ lfsrNext v := by
  refine BitVec.eq_of_getLsbD_eq fun i _ => ?_
  simp only [BitVec.getLsbD_xor, lfsrNext_getLsbD]
  split
  · rw [Bool.xor_assoc, Bool.xor_assoc, Bool.xor_left_comm (v.getLsbD 22)]
  · rw [Bool.and_xor_distrib_left]

/-- Bit i after 23 clocks was fed back at clock 23 − i, from the bits that then stood at 22 and 17: bit i of the value
itself and bit i of the value five clocks on. -/
theorem lfsrNext_iterate_taps (v : BitVec 23) : lfsrNext^[23] v = lfsrNext^[5] v ^^^ v := by
  refine BitVec.eq_of_getLsbD_eq fun i hi => ?_
  have hfed : (lfsrNext^[23] v).getLsbD i =
      ((lfsrNext^[22 - i] v).getLsbD 22 ^^ (lfsrNext^[22 - i] v).getLsbD 17) := by
    have hmove := lfsrNext_iterate_getLsbD (lfsrNext^[22 - i + 1] v) i 0 (by omega)
    rw [← Function.iterate_add_apply, show i + (22 - i + 1) = 23 by omega, Nat.zero_add] at hmove
    rw [hmove, Function.iterate_succ_apply', lfsrNext_getLsbD, if_pos rfl]
  have htop : (lfsrNext^[22 - i] v).getLsbD 22 = v.getLsbD i := by
    have hmove := lfsrNext_iterate_getLsbD v (22 - i) i (by omega)
    rwa [show i + (22 - i) = 22 by omega] at hmove
  have hmiddle : (lfsrNext^[22 - i] v).getLsbD 17 = (lfsrNext^[5] v).getLsbD i := by
    rcases Nat.lt_or_ge i 5 with h5 | h5
    · have hlow := lfsrNext_iterate_getLsbD (lfsrNext^[5 - i] v) i 0 (by omega)
      have hhigh := lfsrNext_iterate_getLsbD (lfsrNext^[5 - i] v) 17 0 (by omega)
      rw [← Function.iterate_add_apply, Nat.zero_add] at hlow hhigh
      rw [show i + (5 - i) = 5 by omega] at hlow
      rw [show 17 + (5 - i) = 22 - i by omega] at hhigh
      rw [hlow, hhigh]
    · have hlow := lfsrNext_iterate_getLsbD v 5 (i - 5) (by omega)
      have hhigh := lfsrNext_iterate_getLsbD v (22 - i) (i - 5) (by omega)
      rw [show i - 5 + 5 = i by omega] at hlow
      rw [show i - 5 + (22 - i) = 17 by omega] at hhigh
      rw [hlow, hhigh]
  rw [hfed, htop, hmiddle, BitVec.getLsbD_xor, Bool.xor_comm]

theorem lfsrNext_clockLike : ClockLike lfsrNext := ⟨lfsrNext_xor, lfsrNext_iterate_taps⟩

section
variable {f : BitVec 23 → BitVec 23} (h : ClockLike f)
include h

theorem ClockLike.iterate_xor (n : Nat) (u v : BitVec 23) : f^[n] (u ^^^ v) = f^[n] u ^^^ f^[n] v := by
  induction n generalizing u v with
  | zero => rfl
  | succ n ih => rw [Function.iterate_succ_apply, h.xor, ih]; rfl

theorem ClockLike.map_zero : f 0#23 = 0#23 := by
  have h0 := h.xor 0#23 0#23
  rwa [BitVec.xor_self, BitVec.xor_self] at h0

/-- Squaring the equation leaves no cross terms: the square of a clock satisfies it too. -/
theorem ClockLike.square : ClockLike f^[2] where
  xor := h.iterate_xor 2
  taps v := by
    rw [← Function.iterate_mul, ← Function.iterate_mul]
    calc f^[23 + 23] v
        = f^[5] (f^[5] v ^^^ v) ^^^ (f^[5] v ^^^ v) := by rw [Function.iterate_add_apply, h.taps v, h.taps]
      _ = f^[5 + 5] v ^^^ (f^[5] v ^^^ f^[5] v) ^^^ v := by
          rw [h.iterate_xor, Function.iterate_add_apply]; ac_rfl
      _ = f^[5 + 5] v ^^^ v := by rw [BitVec.xor_self, BitVec.xor_zero]

end

/-! ### Polynomials in the clock -/

/-- The polynomial with coefficients `cs`, constant term first, in the map `f`, applied to `v`. -/
def polyEval (f : BitVec 23 → BitVec 23) : List Bool → BitVec 23 → BitVec 23
  | [], _ => 0#23
  | b :: cs, v => (if b then v else 0#23) ^^^ f (polyEval f cs v)

/-- The sum of two polynomials over the field of two elements. -/
def polyAdd : List Bool → List Bool → List Bool
  | [], ds => ds
  | cs, [] => cs
  | b :: cs, d :: ds => (b ^^ d) :: polyAdd cs ds

/-- The square of a polynomial over the field of two elements: its terms at twice their degrees. -/
def polySquare : List Bool → List Bool
  | [] => []
  | b :: cs => b :: false :: polySquare cs

/-- A polynomial with the terms of degree 23 and up replaced by x^23 = x^5 + 1. -/
def polyReduce (cs : List Bool) : List Bool :=
  polyAdd (cs.take 23) (polyAdd (List.replicate 5 false ++ cs.drop 23) (cs.drop 23))

/-- The power of x whose exponent has the binary digits `bits`, least significant first, reduced. (A square of degree
below 46 needs two reductions.) -/
def polyPower : List Bool → List Bool
  | [] => [true]
  | b :: bits =>
    let square := polySquare (polyPower bits)
    polyReduce (polyReduce (if b then false :: square else square))

theorem polyEval_polySquare (f : BitVec 23 → BitVec 23) (v : BitVec 23) (cs : List Bool) :
    polyEval f (polySquare cs) v = polyEval f^[2] cs v := by
  induction cs with
  | nil => rfl
  | cons b cs ih => simp [polySquare, polyEval, ih]

section
variable {f : BitVec 23 → BitVec 23} (h : ClockLike f) (v : BitVec 23)
include h

theorem ClockLike.polyEval_polyAdd (cs ds : List Bool) :
    polyEval f (polyAdd cs ds) v = polyEval f cs v ^^^ polyEval f ds v := by
  induction cs, ds using polyAdd.induct with
  | case1 ds => simp [polyAdd, polyEval]
  | case2 cs hcs => cases cs <;> simp [polyAdd, polyEval]
  | case3 b cs d ds ih =>
    have hcoef : (if b ^^ d then v else 0#23) = (if b then v else 0#23) ^^^ (if d then v else 0#23) := by
      cases b <;> cases d <;> simp
    simp only [polyAdd, polyEval, ih, h.xor, hcoef]
    ac_rfl

theorem ClockLike.polyEval_append (cs ds : List Bool) :
    polyEval f (cs ++ ds) v = polyEval f cs v ^^^ f^[cs.length] (polyEval f ds v) := by
  induction cs with
  | nil => simp [polyEval]
  | cons b cs ih =>
    rw [List.cons_append, polyEval, ih, h.xor, List.length_cons, Function.iterate_succ_apply', polyEval]
    ac_rfl

theorem ClockLike.polyEval_replicate_false (n : Nat) : polyEval f (List.replicate n false) v = 0#23 := by
  induction n with
  | zero => rfl
  | succ n ih => simp [List.replicate_succ, polyEval, ih, h.map_zero]

theorem ClockLike.polyEval_polyReduce (cs : List Bool) : polyEval f (polyReduce cs) v = polyEval f cs v := by
  have hsplit : polyEval f cs v =
      polyEval f (cs.take 23) v ^^^ f^[(cs.take 23).length] (polyEval f (cs.drop 23) v) := by
    rw [← h.polyEval_append, List.take_append_drop]
  have hhigh : f^[(cs.take 23).length] (polyEval f (cs.drop 23) v) = f^[23] (polyEval f (cs.drop 23) v) := by
    rcases Nat.lt_or_ge cs.length 23 with hlt | hge
    · rw [List.drop_eq_nil_of_le hlt.le, polyEval, Function.iterate_fixed h.map_zero, Function.iterate_fixed h.map_zero]
    · rw [List.length_take, Nat.min_eq_left hge]
  rw [polyReduce, h.polyEval_polyAdd, h.polyEval_polyAdd, h.polyEval_append, h.polyEval_replicate_false, hsplit, hhigh,
    h.taps, List.length_replicate, BitVec.zero_xor]

end

/-- A power of a clock is the polynomial of low degree that `polyPower` computes: the squares in between are clocks of
the same equation. -/
theorem ClockLike.iterate_eq_polyEval (n : Nat) {f : BitVec 23 → BitVec 23} (h : ClockLike f) (v : BitVec 23) :
    f^[n] v = polyEval f (polyPower n.bits) v := by
  induction n using Nat.binaryRec' generalizing f with
  | zero => simp [polyPower, polyEval, h.map_zero]
  | bit b n hn ih =>
    have heven : f^[2 * n] v = polyEval f (polySquare (polyPower n.bits)) v := by
      rw [Function.iterate_mul, ih h.square, polyEval_polySquare]
    rw [Nat.bits_append_bit n b hn, polyPower, h.polyEval_polyReduce, h.polyEval_polyReduce]
    cases b with
    | false => exact heven
    | true =>
      rw [if_pos rfl, polyEval, ← heven, ← Function.iterate_succ_apply' f]
      exact (BitVec.zero_xor).symm

/-! ### The cycle of the seed (43_sample.md R143 (b)) -/

theorem seed_iterate_full : lfsrNext^[47 * 178481] 0x7FFFF8 = 0x7FFFF8 := by
  rw [lfsrNext_clockLike.iterate_eq_polyEval]
  decide +kernel

theorem seed_iterate_47 : lfsrNext^[47] 0x7FFFF8 ≠ 0x7FFFF8 := by decide +kernel

theorem seed_iterate_178481 : lfsrNext^[178481] 0x7FFFF8 ≠ 0x7FFFF8 := by
  rw [lfsrNext_clockLike.iterate_eq_polyEval]
  decide +kernel

/-- A divisor of a product of two primes that divides neither of them is the product. -/
theorem eq_mul_of_dvd_of_not_dvd {p q d : Nat} (hp : p.Prime) (hq : q.Prime) (hd : d ∣ p * q) (hdp : ¬d ∣ p)
    (hdq : ¬d ∣ q) : d = p * q := by
  obtain ⟨a, b, ha, hb, rfl⟩ := Nat.dvd_mul.mp hd
  rcases hp.eq_one_or_self_of_dvd a ha with rfl | rfl
  · exact absurd (by rwa [Nat.one_mul]) hdq
  · rcases hq.eq_one_or_self_of_dvd b hb with rfl | rfl
    · exact absurd (by rw [Nat.mul_one]) hdp
    · rfl

theorem seed_minimalPeriod : Function.minimalPeriod lfsrNext 0x7FFFF8 = 8388607 := by
  have hdvd {n : Nat} : Function.minimalPeriod lfsrNext 0x7FFFF8 ∣ n ↔ lfsrNext^[n] 0x7FFFF8 = 0x7FFFF8 :=
    Function.isPeriodicPt_iff_minimalPeriod_dvd.symm
  exact eq_mul_of_dvd_of_not_dvd (by norm_num) (by norm_num) (hdvd.mpr seed_iterate_full)
    (mt hdvd.mp seed_iterate_47) (mt hdvd.mp seed_iterate_178481)

/-- A cycle of 2^23 − 1 values that avoids 0 holds every nonzero value: there are no more. -/
theorem exists_iterate_eq {u v : BitVec 23} (hu : u ≠ 0) (hv : v ≠ 0)
    (hperiod : Function.minimalPeriod lfsrNext u = 8388607) : ∃ k, k < 8388607 ∧ lfsrNext^[k] u = v := by
  have hne (k : Nat) : lfsrNext^[k] u ≠ 0 := by
    induction k with
    | zero => exact hu
    | succ k ih =>
      rw [Function.iterate_succ_apply']
      exact mt eq_zero_of_lfsrNext_eq_zero ih
  have hinj : Set.InjOn (lfsrNext^[·] u) (Finset.range 8388607 : Set Nat) := by
    rw [Finset.coe_range, ← hperiod]
    exact Function.iterate_injOn_Iio_minimalPeriod
  have hcard : (Finset.univ.erase (0 : BitVec 23)).card ≤ (Finset.range 8388607).card := by
    rw [Finset.card_erase_of_mem (Finset.mem_univ _), Finset.card_univ, Finset.card_range,
      ← FinEnum.card_eq_fintypeCard, FinEnum.card_bitVec]
    rfl
  have hmaps : Set.MapsTo (lfsrNext^[·] u) (Finset.range 8388607) (Finset.univ.erase (0 : BitVec 23)) :=
    fun k _ => Finset.mem_coe.mpr (Finset.mem_erase.mpr ⟨hne k, Finset.mem_univ _⟩)
  obtain ⟨k, hk, heq⟩ := Finset.surjOn_of_injOn_of_card_le _ hmaps hinj hcard
    (Finset.mem_coe.mpr (Finset.mem_erase.mpr ⟨hv, Finset.mem_univ v⟩))
  exact ⟨k, Finset.mem_range.mp hk, heq⟩

/-- Settles O51: the seed's cycle has length 2^23 − 1 (`seed_minimalPeriod`), so it holds every nonzero value
(`exists_iterate_eq`), and all values of one cycle have its period. -/
theorem noisePeriodIsMaximal : Obligations.NoisePeriodIsMaximal := by
  unfold Obligations.NoisePeriodIsMaximal
  have hperiod (v : BitVec 23) (hv : v ≠ 0) : Function.minimalPeriod lfsrNext v = 8388607 := by
    obtain ⟨k, -, rfl⟩ := exists_iterate_eq (by decide) hv seed_minimalPeriod
    rw [Function.minimalPeriod_apply_iterate, seed_minimalPeriod]
    exact Function.mk_mem_periodicPts (by decide) seed_iterate_full
  exact ⟨seed_minimalPeriod, hperiod, fun u v hu hv => exists_iterate_eq hu hv (hperiod u hu)⟩

end Sys2Proof.Machine

/-! PROOFS. The sample family (43_sample.md), waveforms: every bit of each waveform byte and of their combination
(`combine_getLsbD`), and the bytes as numbers. -/
namespace Sys2Proof.Machine

/-! ### The waveform bytes, bit by bit (43_sample.md R138 to R141) -/

/-- The triangle byte before ring modulation. -/
def foldedPhase (r : ChannelRegs) : BitVec 8 :=
  if secondHalf r then ~~~(r.phase.extractLsb' 19 8) else r.phase.extractLsb' 19 8

theorem triByte_eq (p r : ChannelRegs) :
    triByte p r = if flagRing r && secondHalf p then ~~~(foldedPhase r) else foldedPhase r := rfl

theorem foldedPhase_toNat (r : ChannelRegs) : (foldedPhase r).toNat = triangleOf r := by
  have hphase := r.phase.isLt
  have hfield : (r.phase.extractLsb' 19 8).toNat = r.phase.toNat / 2 ^ 19 % 2 ^ 8 := by
    rw [BitVec.extractLsb'_toNat, Nat.shiftRight_eq_div_pow]
  unfold foldedPhase triangleOf secondHalf
  rcases Nat.lt_or_ge r.phase.toNat (2 ^ 27) with h | h
  · rw [if_pos h, if_neg (by simpa using h), hfield]
    omega
  · rw [if_neg (Nat.not_lt_of_le h), if_pos (by simpa using h), BitVec.toNat_not, hfield]
    omega

theorem triByte_getLsbD (p r : ChannelRegs) {i : Nat} (hi : i < 8) :
    (triByte p r).getLsbD i = triangleBit p r i := by
  have hbit : (triangleOf r).testBit i = (foldedPhase r).getLsbD i := by rw [← foldedPhase_toNat]; rfl
  have hring : (r.wave.getLsbD 2 && decide (2 ^ 27 ≤ p.phase.toNat)) = (flagRing r && secondHalf p) := rfl
  rw [triangleBit, hbit, hring, triByte_eq]
  cases flagRing r && secondHalf p with
  | false => simp
  | true => simp [hi]

theorem sawByte_getLsbD (r : ChannelRegs) {i : Nat} (hi : i < 8) :
    (sawByte r).getLsbD i = (r.phase.toNat / 2 ^ 20).testBit i := by
  rw [sawByte, BitVec.getLsbD_extractLsb', decide_eq_true hi, Bool.true_and, Nat.testBit_div_two_pow, Nat.add_comm,
    BitVec.testBit_toNat]

theorem ones_getLsbD {i : Nat} (hi : i < 8) : (0xFF : BitVec 8).getLsbD i = true :=
  (BitVec.getLsbD_allOnes (v := 8)).trans (decide_eq_true hi)

theorem ones_and (b : BitVec 8) : 0xFF#8 &&& b = b := BitVec.allOnes_and

theorem pulseByte_getLsbD (r : ChannelRegs) {i : Nat} (hi : i < 8) :
    (pulseByte r).getLsbD i = decide (r.pw.toNat < r.phase.toNat) := by
  unfold pulseByte
  split
  · next h => rw [decide_eq_true h]; exact ones_getLsbD hi
  · next h => rw [decide_eq_false h]; exact BitVec.getLsbD_zero

/-- A sum of eight bits, each at its place, has each bit at its place. -/
theorem ofNat_sum_getLsbD (b : Fin 8 → Bool) (i : Fin 8) :
    (BitVec.ofNat 8 ((b 0).toNat <<< 0 + (b 1).toNat <<< 1 + (b 2).toNat <<< 2 + (b 3).toNat <<< 3 +
      (b 4).toNat <<< 4 + (b 5).toNat <<< 5 + (b 6).toNat <<< 6 + (b 7).toNat <<< 7)).getLsbD i = b i := by
  have hnest : (b 0).toNat <<< 0 + (b 1).toNat <<< 1 + (b 2).toNat <<< 2 + (b 3).toNat <<< 3 + (b 4).toNat <<< 4 +
      (b 5).toNat <<< 5 + (b 6).toNat <<< 6 + (b 7).toNat <<< 7 =
      Nat.bit (b 0) (Nat.bit (b 1) (Nat.bit (b 2) (Nat.bit (b 3) (Nat.bit (b 4) (Nat.bit (b 5) (Nat.bit (b 6)
        (Nat.bit (b 7) 0))))))) := by
    simp only [Nat.bit_val, Nat.shiftLeft_eq]
    ring
  rw [hnest, BitVec.getLsbD_ofNat, decide_eq_true i.isLt, Bool.true_and]
  fin_cases i <;> simp [Nat.testBit_bit_succ]

theorem noiseByte_getLsbD (cfg : Config) (r : ChannelRegs) (i : Fin 8) :
    (noiseByte cfg r).getLsbD i = r.lfsr.getLsbD (cfg.noiseTaps.get i) :=
  ofNat_sum_getLsbD (fun i => r.lfsr.getLsbD (cfg.noiseTaps.get i)) i

/-! ### Their combination (43_sample.md R142) -/

theorem andIf_getLsbD (flag : Bool) (byte b : BitVec 8) (i : Nat) :
    (andIf flag byte b).getLsbD i = ((!flag || byte.getLsbD i) && b.getLsbD i) := by
  cases flag with
  | false => simp [andIf]
  | true => simp [andIf, Bool.and_comm]

theorem combine_getLsbD (cfg : Config) (p r : ChannelRegs) (i : Fin 8) :
    (combine cfg p r).getLsbD i =
      ((!r.wave.getLsbD 4 || triangleBit p r i) && (!r.wave.getLsbD 5 || (r.phase.toNat / 2 ^ 20).testBit i) &&
       (!r.wave.getLsbD 6 || decide (r.pw.toNat < r.phase.toNat)) &&
       (!r.wave.getLsbD 7 || r.lfsr.getLsbD (cfg.noiseTaps.get i))) := by
  simp only [combine, andIf_getLsbD, flagTri, flagSaw, flagPulse, flagNoise, triByte_getLsbD p r i.isLt,
    sawByte_getLsbD r i.isLt, pulseByte_getLsbD r i.isLt, noiseByte_getLsbD, ones_getLsbD i.isLt, Bool.and_true]
  ac_rfl

theorem sampleStep_waveout (s : State) (c : Chan) : ((sampleStep s).chan c).waveout =
    combine s.cfg (seenPred s (sampleStep s) c) ((sampleStep s).chan c) := by
  rw [sampleStep_chan, stepChannelRegs_waveout]

/-- Settles O43: WAVEOUT is the combination of the stepped registers (`sampleStep_waveout`), bit by bit
(`combine_getLsbD`), and no sample writes WAVE or PW. -/
theorem sampleCombinesTheWaveforms : Obligations.SampleCombinesTheWaveforms := by
  unfold Obligations.SampleCombinesTheWaveforms
  refine fun s => ⟨_, rfl, fun c i => ?_⟩
  rw [sampleStep_waveout, combine_getLsbD, sampleStep_wave, sampleStep_pw]

/-! ### The shapes (43_sample.md R143) -/

section
variable (cfg : Config) (p : ChannelRegs) {r : ChannelRegs}

/-- The four waveform flags are the upper nibble of WAVE (10_state.md R32). -/
theorem combine_of_nibble {n : Nat} (h : r.wave.toNat / 16 = n) :
    combine cfg p r =
      andIf (n / 8 % 2 = 1) (noiseByte cfg r) (andIf (n / 4 % 2 = 1) (pulseByte r)
        (andIf (n / 2 % 2 = 1) (sawByte r) (andIf (n % 2 = 1) (triByte p r) 0xFF))) := by
  subst h
  simp only [combine, flagNoise, flagPulse, flagSaw, flagTri, getLsbD_eq_decide, Nat.div_div_eq_div_mul,
    Nat.reducePow, Nat.reduceMul]

theorem combine_of_tri (h : r.wave.toNat / 16 = 1) : combine cfg p r = triByte p r := by
  simp [combine_of_nibble cfg p h, andIf, ones_and]

theorem combine_of_saw (h : r.wave.toNat / 16 = 2) : combine cfg p r = sawByte r := by
  simp [combine_of_nibble cfg p h, andIf, ones_and]

theorem combine_of_tri_pulse (h : r.wave.toNat / 16 = 5) : combine cfg p r = triByte p r &&& pulseByte r := by
  simp [combine_of_nibble cfg p h, andIf, ones_and]

theorem triByte_toNat_of_no_ring (h : r.wave.getLsbD 2 = false) : (triByte p r).toNat = triangleOf r := by
  have hring : flagRing r = false := h
  rw [triByte_eq, hring, if_neg (by simp), foldedPhase_toNat]

end

theorem sawByte_toNat (r : ChannelRegs) : (sawByte r).toNat = r.phase.toNat / 2 ^ 20 := by
  have hphase := r.phase.isLt
  rw [sawByte, BitVec.extractLsb'_toNat, Nat.shiftRight_eq_div_pow]
  omega

theorem triangleOf_of_first_half {r : ChannelRegs} (h : r.phase.toNat < 2 ^ 27) :
    triangleOf r = r.phase.toNat / 2 ^ 19 := if_pos h

theorem triangleOf_of_second_half {r : ChannelRegs} (h : 2 ^ 27 ≤ r.phase.toNat) :
    triangleOf r = 255 - (r.phase.toNat - 2 ^ 27) / 2 ^ 19 := if_neg (Nat.not_lt_of_le h)

theorem triangleOf_of_middle {r : ChannelRegs} (hlo : 2 ^ 27 - 2 ^ 19 ≤ r.phase.toNat)
    (hhi : r.phase.toNat < 2 ^ 27 + 2 ^ 19) : triangleOf r = 0xFF := by
  rcases Nat.lt_or_ge r.phase.toNat (2 ^ 27) with h | h
  · rw [triangleOf_of_first_half h]; omega
  · rw [triangleOf_of_second_half h]; omega

/-- Settles O44: with TRI alone or SAW alone the combination is that byte, whose number is `triangleOf` or the phase's
top byte; with PULSE and TRI it is their AND, where one of the two bytes is 0x00 or 0xFF. -/
theorem waveformShapes : Obligations.WaveformShapes := by
  unfold Obligations.WaveformShapes
  refine fun s => ⟨_, rfl, fun c => ?_⟩
  rw [← sampleStep_wave s c, ← sampleStep_pw s c, sampleStep_waveout]
  generalize seenPred s (sampleStep s) c = p
  generalize (sampleStep s).chan c = r
  have hphase := r.phase.isLt
  refine ⟨fun htri hring => ?_, fun hsaw => ?_, fun hboth => ⟨fun h0 => ?_, fun hmid hring => ?_⟩⟩
  · have hbyte : (combine s.cfg p r).toNat = triangleOf r := by
      rw [combine_of_tri _ _ htri, triByte_toNat_of_no_ring _ hring]
    refine ⟨fun h => hbyte.trans (triangleOf_of_first_half h), fun h => hbyte.trans (triangleOf_of_second_half h),
      fun h0 => BitVec.eq_of_toNat_eq (hbyte.trans ?_),
      fun hlo hhi => BitVec.eq_of_toNat_eq (hbyte.trans (triangleOf_of_middle hlo hhi)),
      fun htop => BitVec.eq_of_toNat_eq (hbyte.trans ?_)⟩
    · rw [triangleOf_of_first_half (by simp [h0]), h0]
      rfl
    · rw [triangleOf_of_second_half (by omega)]
      exact Nat.sub_eq_zero_of_le (by omega)
  · have hbyte : (combine s.cfg p r).toNat = r.phase.toNat / 2 ^ 20 := by
      rw [combine_of_saw _ _ hsaw, sawByte_toNat]
    refine ⟨hbyte, fun h0 => BitVec.eq_of_toNat_eq ?_, fun htop => BitVec.eq_of_toNat_eq ?_⟩
    · rw [hbyte, h0]
      rfl
    · rw [hbyte]
      change r.phase.toNat / 2 ^ 20 = 255
      omega
  · rw [combine_of_tri_pulse _ _ hboth, pulseByte, if_neg (by simp [h0])]
    exact BitVec.and_zero
  · have hones : triByte p r = 0xFF := by
      apply BitVec.eq_of_toNat_eq
      rw [triByte_toNat_of_no_ring _ hring, triangleOf_of_middle (by omega) (by omega)]
      rfl
    rw [combine_of_tri_pulse _ _ hboth, hones, pulseByte, hmid]
    split <;> rfl

end Sys2Proof.Machine

/-! PROOFS. The sample family (43_sample.md), the mixer: OUT as the clamped sum of the four contributions
(`sampleStep_out_toInt`), the range of a contribution, and a channel's mute bit, which no other register after a sample
depends on (`SameButActive`). -/
namespace Sys2Proof.Machine

/-! ### The sum and its clamp (43_sample.md R144, R145) -/

theorem contribution_eq (cfg : Config) (r : ChannelRegs) : contribution cfg r = contributionOf cfg r := by
  simp [contribution, contributionOf, asr]

theorem clampSample_toInt (sum : Int) : (clampSample sum).toInt = max (-32768) (min 32767 sum) := by
  rw [clampSample, clamp, BitVec.toInt_ofInt_eq_self (by decide) (by omega) (by omega)]
  omega

theorem bankSum_eq (s : State) : bankSum s = contributionOf s.cfg (s.chan .c0) + contributionOf s.cfg (s.chan .c1) +
    contributionOf s.cfg (s.chan .c2) + contributionOf s.cfg (s.chan .c3) := by
  simp only [bankSum, contribution_eq]

/-- The sum with one channel's contribution apart. -/
theorem bankSum_eq_otherContributions (s : State) (c : Chan) :
    bankSum s = otherContributions s.cfg s c + contributionOf s.cfg (s.chan c) := by
  rw [bankSum_eq]
  cases c <;> simp only [otherContributions] <;> omega

theorem sampleStep_out_toInt (s : State) :
    (sampleStep s).out.toInt = max (-32768) (min 32767 (bankSum (sampleStep s))) := by
  rw [sampleStep_out, clampSample_toInt]

/-- The product of a signed byte and a level is least at −128 and greatest at 127, both at the greatest level. -/
theorem product_bounds (r : ChannelRegs) :
    -2147483520 ≤ ((r.waveout.toNat : Int) - 128) * r.level.toNat ∧
      ((r.waveout.toNat : Int) - 128) * r.level.toNat ≤ 2130706305 := by
  have hbyte := r.waveout.isLt
  have hlevel := level_le_maxLevel r
  have hmax : maxLevel = 16777215 := rfl
  have hlo : -128 * (r.level.toNat : Int) ≤ ((r.waveout.toNat : Int) - 128) * r.level.toNat :=
    mul_le_mul_of_nonneg_right (by omega) (by omega)
  have hhi : ((r.waveout.toNat : Int) - 128) * r.level.toNat ≤ 127 * (r.level.toNat : Int) :=
    mul_le_mul_of_nonneg_right (by omega) (by omega)
  omega

/-- Settles O45: OUT is `sampleStep_out_toInt`, and each product is within `product_bounds`. -/
theorem sampleMixesAndClamps : Obligations.SampleMixesAndClamps := by
  unfold Obligations.SampleMixesAndClamps
  refine fun s => ⟨_, rfl, ?_, fun c => product_bounds _⟩
  rw [sampleStep_out_toInt, bankSum_eq, sampleStep_cfg]

/-! ### One channel's contribution (43_sample.md R146 (a), (b)) -/

section
variable {cfg : Config} {r : ChannelRegs}

theorem contributionOf_muted (h : r.active = 0) : contributionOf cfg r = 0 :=
  if_neg (by rw [h]; decide)

theorem contributionOf_range (h : cfg.mixShift = 16) :
    -32768 ≤ contributionOf cfg r ∧ contributionOf cfg r ≤ 32511 := by
  have hproduct := product_bounds r
  unfold contributionOf
  rw [h]
  split
  · omega
  · decide

theorem contributionOf_eq_zero (h : r.level = 0 ∨ r.waveout = 0x80) : contributionOf cfg r = 0 := by
  have hproduct : ((r.waveout.toNat : Int) - 128) * r.level.toNat = 0 := by
    rcases h with h | h
    · simp [h]
    · simp [h]
  unfold contributionOf
  rw [hproduct, Int.zero_ediv, ite_self]

/-- The floor of −LEVEL / 2^MIX_SHIFT. -/
theorem contributionOf_eq_neg_one (hactive : r.active = 1) (hbyte : r.waveout = 0x7F) (hpos : 1 ≤ r.level.toNat)
    (hle : r.level.toNat ≤ 2 ^ cfg.mixShift) : contributionOf cfg r = -1 := by
  have hle' : (r.level.toNat : Int) ≤ 2 ^ cfg.mixShift := by exact_mod_cast hle
  unfold contributionOf
  have hproduct : (((0x7F : BitVec 8).toNat : Int) - 128) * r.level.toNat = -r.level.toNat := Int.neg_one_mul _
  rw [if_pos hactive, hbyte, hproduct, Int.ediv_eq_iff_of_pos (by positivity)]
  omega

end

theorem otherContributions_eq_zero {s : State} {c : Chan} (cfg : Config) (h : ∀ d, d ≠ c → (s.chan d).active = 0) :
    otherContributions cfg s c = 0 := by
  have hmuted (d : Chan) (hd : d ≠ c) : contributionOf cfg (s.chan d) = 0 := contributionOf_muted (h d hd)
  cases c <;> simp [otherContributions, hmuted]

/-- Settles O54: the contribution's range and values are the lemmas above; with the other channels muted the sum is one
contribution, whose range the clamp does not cut. -/
theorem mixerLaws : Obligations.MixerLaws := by
  unfold Obligations.MixerLaws
  refine fun cfg r => ⟨contributionOf_range, contributionOf_eq_zero, contributionOf_eq_neg_one,
    fun s c hshift hmuted => ⟨_, rfl, ?_⟩⟩
  have hothers : otherContributions s.cfg (sampleStep s) c = 0 :=
    otherContributions_eq_zero _ fun d hd => (sampleStep_active s d).trans (hmuted d hd)
  have hrange := contributionOf_range (r := (sampleStep s).chan c) hshift
  rw [sampleStep_out_toInt, bankSum_eq_otherContributions _ c, sampleStep_cfg, hothers]
  omega

/-! ### Muting one channel (43_sample.md R146 (c), (d)) -/

/-- The registers of a channel with the mute bit loaded (44_host.md R171). -/
def setActive (b : BitVec 1) (r : ChannelRegs) : ChannelRegs := { r with active := b }

section
variable (cfg : Config) (p r : ChannelRegs) (b : BitVec 1)

theorem attackAction_setActive (inc : Nat) : attackAction inc (setActive b r) = setActive b (attackAction inc r) := by
  unfold attackAction
  rw [apply_ite (setActive b)]
  rfl

theorem decayAction_setActive (dec sus : Nat) :
    decayAction dec sus (setActive b r) = setActive b (decayAction dec sus r) := by
  unfold decayAction
  rw [apply_ite (setActive b)]
  rfl

theorem sustainAction_setActive (sus : Nat) :
    sustainAction sus (setActive b r) = setActive b (sustainAction sus r) := by
  unfold sustainAction
  rw [apply_ite (setActive b)]
  rfl

theorem envStep_setActive : envStep cfg (setActive b r) = setActive b (envStep cfg r) := by
  have htest : gateTest (setActive b r) = gateTest r := rfl
  unfold envStep
  rw [htest]
  cases gateTest r with
  | release => rfl
  | attack => exact attackAction_setActive { r with envst := .attack } b _
  | decay => exact decayAction_setActive { r with envst := .decay } b _ _
  | sustain => exact sustainAction_setActive { r with envst := .sustain } b _

theorem hardSync_setActive : hardSync p (setActive b r) = setActive b (hardSync p r) := by
  unfold hardSync
  rw [apply_ite (setActive b)]
  rfl

theorem noiseClock_setActive (old : BitVec 28) :
    noiseClock old (setActive b r) = setActive b (noiseClock old r) := by
  unfold noiseClock
  rw [apply_ite (setActive b)]
  rfl

/-- No sub-step of a channel reads its mute bit or writes it. -/
theorem stepChannelRegs_setActive :
    stepChannelRegs cfg p (setActive b r) = setActive b (stepChannelRegs cfg p r) := by
  have hphase (q : ChannelRegs) : phaseStep (setActive b q) = setActive b (phaseStep q) := rfl
  unfold stepChannelRegs
  rw [envStep_setActive, hphase, hardSync_setActive]
  exact congrArg (latchWave cfg p) (noiseClock_setActive _ b _)

end

/-- `q` has the registers of `r` but for the mute bit. -/
def SameButActive (r q : ChannelRegs) : Prop := q = setActive q.active r

/-- A channel reads PHASE and FREQ of its predecessor only, so the predecessor's mute bit does not reach it. -/
theorem SameButActive.stepChannelRegs {p p' r r' : ChannelRegs} (hp : SameButActive p p') (hr : SameButActive r r')
    (cfg : Config) : SameButActive (stepChannelRegs cfg p r) (stepChannelRegs cfg p' r') := by
  have hpred : Machine.stepChannelRegs cfg p' r' = Machine.stepChannelRegs cfg p r' := by rw [hp]; rfl
  rw [SameButActive, hpred, stepChannelRegs_active, ← stepChannelRegs_setActive, ← hr]

/-- Over a whole sample, channel after channel in R131's order. -/
theorem SameButActive.sampleStep {s s' : State} (hcfg : s'.cfg = s.cfg)
    (h : ∀ d, SameButActive (s.chan d) (s'.chan d)) (d : Chan) :
    SameButActive ((sampleStep s).chan d) ((sampleStep s').chan d) := by
  have hstep (d : Chan)
      (hp : SameButActive (seenPred s (Machine.sampleStep s) d) (seenPred s' (Machine.sampleStep s') d)) :
      SameButActive ((Machine.sampleStep s).chan d) ((Machine.sampleStep s').chan d) := by
    rw [sampleStep_chan s, sampleStep_chan s', hcfg]
    exact hp.stepChannelRegs (h d) _
  have h0 := hstep .c0 (h .c3)
  have h1 := hstep .c1 h0
  have h2 := hstep .c2 h1
  have h3 := hstep .c3 h2
  cases d with
  | c0 => exact h0
  | c1 => exact h1
  | c2 => exact h2
  | c3 => exact h3

theorem sampleStep_chan_of_setActive (s : State) (c : Chan) (b : BitVec 1) (d : Chan) :
    (sampleStep (s.setChan c (setActive b (s.chan c)))).chan d =
      if d = c then setActive b ((sampleStep s).chan d) else (sampleStep s).chan d := by
  have hsame (d : Chan) : SameButActive (s.chan d) ((s.setChan c (setActive b (s.chan c))).chan d) := by
    rw [State.chan_setChan]
    split
    · next hd => rw [hd]; rfl
    · rfl
  rw [SameButActive.sampleStep (State.setChan_cfg _ _ _) hsame d, sampleStep_active, State.chan_setChan]
  split
  · rfl
  · rw [← sampleStep_active]
    rfl

theorem otherContributions_congr {s t : State} {c : Chan} (cfg : Config) (h : ∀ d, d ≠ c → t.chan d = s.chan d) :
    otherContributions cfg t c = otherContributions cfg s c := by
  cases c <;> simp [otherContributions, h]

/-- Settles O53: the mute bit reaches no other register of a sample (`sampleStep_chan_of_setActive`), and OUT is the
clamp of the others' contributions and the channel's own. -/
theorem muteIsolation : Obligations.MuteIsolation := by
  unfold Obligations.MuteIsolation
  intro s c b
  have hchan := sampleStep_chan_of_setActive s c b
  have hother (d : Chan) (hd : d ≠ c) := (hchan d).trans (if_neg hd)
  have hown := (hchan c).trans (if_pos rfl)
  have hout := sampleStep_out_toInt (s.setChan c (setActive b (s.chan c)))
  rw [bankSum_eq_otherContributions _ c, otherContributions_congr _ hother, hown, sampleStep_cfg] at hout
  refine ⟨s.setChan c (setActive b (s.chan c)), sampleStep s, sampleStep (s.setChan c (setActive b (s.chan c))), rfl,
    rfl, rfl, fun d hd => ⟨hother d hd, congrArg _ (hother d hd)⟩, hown, fun h0 => ?_, hout, ?_⟩
  · have hmuted : contributionOf s.cfg (setActive b ((sampleStep s).chan c)) = 0 := contributionOf_muted h0
    rw [State.setChan_cfg, hmuted, Int.add_zero] at hout
    exact ⟨by rw [hown, hmuted], hout⟩
  · simp

end Sys2Proof.Machine

/-! PROOFS. The host family (44_host.md): NOP, ACTIVE and READ (R170 to R172), and runs that do not depend on how the
host groups what it sends (R175). The last rests on one fact about a step: what the host adds behind the input taken
waits and takes no part in it (`step_issue`). -/
namespace Sys2Proof.Machine

/-! ### NOP and ACTIVE (44_host.md R170, R171) -/

/-- A NOP has no operands: any nonzero field below OP 0 is reserved. -/
theorem decode_of_nop_reserved {w : Word} (hop : opNumber w = 0x0)
    (h : chNumber w ≠ 0 ∨ zNumber w ≠ 0 ∨ dataNumber w ≠ 0) : decode w = .error .reservedField := by
  rw [decode_eq_checks, if_neg (hop ▸ by decide)]
  by_cases hz : zNumber w ≠ 0 ∨ MbzSet (opNumber w) (dataNumber w)
  · rw [if_pos hz]
  · have hc : chNumber w ≠ 0 := h.resolve_right (mt (Or.imp_right fun hd => .inl ⟨hop, hd⟩) hz)
    rw [if_neg hz, if_pos ⟨hop ▸ by decide, hc⟩]

/-- Settles O23: NOP's word is the zero word (the round trips `decode_encode` and `wellFormed_and_encode_of_decode`). -/
theorem nopChangesNothing : Obligations.NopChangesNothing := by
  unfold Obligations.NopChangesNothing
  have hword : encode .nop = 0x0000000000 := by decide
  refine ⟨fun _ => rfl, fun w => ⟨fun h => ?_, fun h => ?_⟩, fun _ => decode_of_nop_reserved⟩
  · rw [← (wellFormed_and_encode_of_decode h).2, hword]
  · rw [h, ← hword]
    exact decode_encode rfl

/-- Settles O24: ACTIVE is one write of its channel. -/
theorem activeLoadsTheMuteBit : Obligations.ActiveLoadsTheMuteBit := by
  unfold Obligations.ActiveLoadsTheMuteBit
  exact fun s c _ => ⟨_, rfl, onlyChannelBecomes_setChan s c _⟩

/-! ### READ (44_host.md R172) -/

theorem onlyReadBecomes_presentRead (v : BitVec 32) (s : State) : OnlyReadBecomes v s (presentRead v s) :=
  ⟨rfl, rfl, fun _ => rfl, rfl, rfl, rfl, rfl, rfl⟩

/-- What every READ does, whatever register it reads. -/
theorem readRegister_onlyReadBecomes {w : Nat} (v : BitVec w) (s : State) :
    ∃ t, readRegister v s = .next t ∧ OnlyReadBecomes (v.setWidth 32) s t :=
  ⟨_, rfl, onlyReadBecomes_presentRead _ s⟩

/-- The encoding of ENVST as a READ shows it (10_state.md R28). -/
theorem envState_bits_setWidth (e : EnvState) :
    e.bits.setWidth 32 = match e with | .release => 0 | .attack => 1 | .decay => 2 | .sustain => 3 := by
  cases e <;> rfl

/-- Settles O25: each READ is a `readRegister` of its own register. -/
theorem readOfAChannelRegister : Obligations.ReadOfAChannelRegister := by
  unfold Obligations.ReadOfAChannelRegister
  intro s c
  have read {w : Nat} (v : BitVec w) := readRegister_onlyReadBecomes v s
  have henvst := read (s.chan c).envst.bits
  rw [envState_bits_setWidth] at henvst
  exact ⟨read (s.chan c).phase, read (s.chan c).freq, read (s.chan c).pw, read (s.chan c).lfsr, read (s.chan c).level,
    henvst, read (readWaveReg (s.chan c)), read (s.chan c).gate, read (s.chan c).adsr, read (s.chan c).active,
    read (s.chan c).waveout⟩

/-- Settles O26: OUT and FAULT are read as a channel register is. -/
theorem readOfAGlobalRegister : Obligations.ReadOfAGlobalRegister := by
  unfold Obligations.ReadOfAGlobalRegister
  exact fun s => ⟨readRegister_onlyReadBecomes s.out s, readRegister_onlyReadBecomes s.fault s⟩

/-! ### What the host adds takes no part in what is done (44_host.md R175, 20_memory.md R57) -/

section
variable (s : State) (l : List HostInput)

theorem raiseFault_issue (k : FaultCode) : raiseFault k (s.issue l) = (raiseFault k s).issue l := by
  unfold raiseFault
  rw [issue_fault]
  split <;> rfl

theorem loadIncrement_issue (c : Chan) (n : Nat) :
    loadIncrement c n (s.issue l) = (loadIncrement c n s).issue l := by
  unfold loadIncrement setFreq
  split
  · rfl
  · exact raiseFault_issue (s.setChan c { s.chan c with freq := maxFreq }) l .pitchRange

theorem stepChannel_issue (c : Chan) : stepChannel c (s.issue l) = (stepChannel c s).issue l := rfl

/-- Turn by turn: as one `rfl` the kernel would unfold the arithmetic of all four. -/
theorem stepAll_issue : stepAll (s.issue l) = (stepAll s).issue l := by
  unfold stepAll
  rw [stepChannel_issue, stepChannel_issue, stepChannel_issue, stepChannel_issue]

theorem bankSum_issue : bankSum (s.issue l) = bankSum s := rfl

theorem driveSample_issue (v : BitVec 16) : driveSample v (s.issue l) = (driveSample v s).issue l := rfl

theorem sampleStep_issue : sampleStep (s.issue l) = (sampleStep s).issue l := by
  rw [sampleStep_eq, sampleStep_eq, stepAll_issue, bankSum_issue, driveSample_issue]

theorem resetInput_issue : resetInput (s.issue l) = (resetInput s).issue l := rfl

/-- A command neither sees nor changes what waits. -/
theorem afterExec_issue (i : Instr) : afterExec i (s.issue l) = (afterExec i s).issue l := by
  cases i
  case sample => exact sampleStep_issue s l
  case pitch c q => rw [afterExec_pitch, afterExec_pitch, loadIncrement_issue, issue_cfg]
  case wave c flags =>
    simp only [afterExec_wave]
    split
    · exact raiseFault_issue s l .reservedField
    · rfl
  all_goals rfl

end

theorem dropInput_issue {s : State} (h : s.input ≠ []) (l : List HostInput) :
    dropInput (s.issue l) = (dropInput s).issue l := by
  simp only [dropInput, State.issue, List.tail_append_of_ne_nil h]

/-- A step takes the oldest input, so what comes behind another one waits through it. -/
theorem step_issue {s t : State} (hi : s.input ≠ []) (h : step s = .next t) (l : List HostInput) :
    step (s.issue l) = .next (t.issue l) := by
  have waiting {x : HostInput} {rest : List HostInput} (hx : s.input = x :: rest) :
      (s.issue l).input = x :: (rest ++ l) := by rw [issue_input, hx, List.cons_append]
  rcases step_cases s with ⟨hx, -⟩ | ⟨rest, hx, hs⟩ | ⟨w, rest, i, hx, hd, hs⟩ | ⟨w, rest, k, hx, hd, hs⟩
  · exact absurd hx hi
  all_goals obtain rfl := Host.Outcome.next.inj (hs.symm.trans h)
  · rw [step_reset (waiting hx), dropInput_issue hi, resetInput_issue]
  · rw [step_command (waiting hx), acceptWord_ok hd, exec_eq, dropInput_issue hi, afterExec_issue]
  · rw [step_command (waiting hx), acceptWord_error hd, dropInput_issue hi, raiseFault_issue]

/-! ### Runs (20_memory.md R57) -/

theorem run_succ {s t : State} (h : step s = .next t) (n : Nat) :
    Host.Core.run Sys2Proof.core (n + 1) s = Host.Core.run Sys2Proof.core n t := by
  have hcore : Sys2Proof.core.step s = .next t := h
  simp only [Host.Core.run, hcore]

/-- A run goes on from where its first steps ended. -/
theorem run_add {s t : State} {m : Nat} (h : Host.Core.run Sys2Proof.core m s = .next t) (n : Nat) :
    Host.Core.run Sys2Proof.core (m + n) s = Host.Core.run Sys2Proof.core n t := by
  induction m generalizing s with
  | zero =>
    obtain rfl := Host.Outcome.next.inj h
    rw [Nat.zero_add]
  | succ m ih =>
    obtain ⟨u, hu, -⟩ := everyStepAnswersANextState s
    rw [run_succ hu] at h
    rw [Nat.succ_add, run_succ hu, ih h]

/-- A step for each input waiting takes them all, and whatever the host adds behind them still waits at the end. -/
theorem run_input_length {s : State} {n : Nat} (hn : s.input.length = n) :
    ∃ t, Host.Core.run Sys2Proof.core n s = .next t ∧ t.input = [] ∧
      ∀ l, Host.Core.run Sys2Proof.core n (s.issue l) = .next (t.issue l) := by
  induction n generalizing s with
  | zero => exact ⟨s, rfl, List.length_eq_zero_iff.mp hn, fun _ => rfl⟩
  | succ n ih =>
    have hi : s.input ≠ [] := List.ne_nil_of_length_eq_add_one hn
    obtain ⟨u, hu, hinput, -⟩ := everyStepAnswersANextState s
    have hlen : u.input.length = n := by rw [hinput, List.length_tail, hn, Nat.add_sub_cancel]
    obtain ⟨t, ht, hdone, hrun⟩ := ih hlen
    exact ⟨t, (run_succ hu n).trans ht, hdone, fun l => (run_succ (step_issue hi hu l) n).trans (hrun l)⟩

theorem issue_append (s : State) (a b : List HostInput) : s.issue (a ++ b) = (s.issue a).issue b := by
  simp only [State.issue, List.append_assoc]

/-- Settles O16: the first list is taken with the second waiting (`run_input_length`), and the run goes on from there
(`run_add`). -/
theorem runsDoNotDependOnGrouping : Obligations.RunsDoNotDependOnGrouping := by
  unfold Obligations.RunsDoNotDependOnGrouping
  intro s a b hs
  have hlen : (s.issue a).input.length = a.length := by rw [issue_input, hs, List.nil_append]
  obtain ⟨t, ht, hdone, hrun⟩ := run_input_length hlen
  refine ⟨t, ht, hdone, ?_⟩
  rw [issue_append, List.length_append, run_add (hrun b)]

end Sys2Proof.Machine

/-! PROOFS. The exceptions family (60_exceptions.md): the code an illegal word leaves (R191 to R194), PITCH_RANGE and
the commands that cannot fault (R195, R196), a block with nothing sent (R205), and what a channel can see of another
(R203). The last rests on one fact about a channel's step: it reads PHASE and FREQ of its predecessor, and these only
under SYNC or RING (`stepChannelRegs_congr_pred`). -/
namespace Sys2Proof.Machine

/-! ### FAULT after a fault (60_exceptions.md R191) -/

theorem raiseFault_fault_of_zero {s : State} {k : FaultCode} (h : s.fault = 0) :
    (raiseFault k s).fault = faultNumber k := by
  rw [raiseFault_fault, if_pos h]

theorem raiseFault_fault_of_ne_zero {s : State} {k : FaultCode} (h : s.fault ≠ 0) :
    (raiseFault k s).fault = s.fault := by
  rw [raiseFault_fault, if_neg h]

/-! ### The illegal words (60_exceptions.md R192 to R194) -/

/-- Settles O5: an illegal word raises the fault it decodes to and does no more; which one that is, R78's checks say in
their order (`decodeChecksInOrder`). -/
theorem illegalCommandRecordsItsCode : Obligations.IllegalCommandRecordsItsCode := by
  unfold Obligations.IllegalCommandRecordsItsCode
  intro s w hw
  obtain ⟨k, hk⟩ := (illegalWord_iff w).mp hw
  obtain ⟨hopcode, hreserved, hnoChannel, hselect, hglobal, -⟩ := decodeChecksInOrder w
  have records {j : FaultCode} (h0 : s.fault = 0) (hj : decode w = .error j) :
      (raiseFault k s).fault = faultNumber j := by
    obtain rfl := Except.error.inj (hk.symm.trans hj)
    exact raiseFault_fault_of_zero h0
  refine ⟨(raiseFault k s).fault, (acceptWord_error hk s).trans (congrArg _ (raiseFault_eq k s)),
    fun h0 hop => records h0 (hopcode hop), fun h0 hop hmbz => records h0 (hreserved hop hmbz),
    fun h0 _ hz hmbz hc hsome => ?_, fun h0 hop hz hmbz hsel => records h0 (hselect hop hz hmbz hsel),
    raiseFault_fault_of_ne_zero⟩
  rcases hsome with hlow | ⟨hread, hsel⟩
  · exact records h0 (hnoChannel hlow hz hmbz hc)
  · exact records h0 (hglobal hread hz hmbz hsel hc)

/-! ### PITCH_RANGE, the one fault of a command that decodes (60_exceptions.md R195, R196) -/

/-- A PITCH out of range writes the greatest FREQ and raises PITCH_RANGE. -/
theorem exec_pitch_of_saturates (s : State) (c : Chan) {q : BitVec 16} (hq : 2 ^ 28 ≤ pitchToFreq s.cfg q.toInt) :
    exec (.pitch c q) s = .next (raiseFault .pitchRange (s.setChan c { s.chan c with freq := maxFreq })) := by
  rw [exec_eq, afterExec_pitch]
  obtain ⟨hlt, -⟩ | ⟨-, h⟩ := loadIncrement_cases c (pitchToFreq s.cfg (pitchOperand q)) s
  · exact absurd hlt (not_lt.mpr hq)
  · rw [h]

/-- Settles O30: the two operations of `exec_pitch_of_saturates`, field by field. -/
theorem pitchOutOfRangeSaturates : Obligations.PitchOutOfRangeSaturates := by
  unfold Obligations.PitchOutOfRangeSaturates
  intro s c q hq
  have hset := onlyChannelBecomes_setChan s c { s.chan c with freq := maxFreq }
  refine ⟨_, exec_pitch_of_saturates s c hq, ?_, raiseFault_fault_of_zero (s := s.setChan c _),
    raiseFault_fault_of_ne_zero (s := s.setChan c _), fun d hd => ?_, raiseFault_out _ _, raiseFault_rdata _ _,
    ⟨raiseFault_cfg _ _, raiseFault_input _ _, raiseFault_samples _ _, raiseFault_reads _ _⟩⟩
  · rw [raiseFault_chan, hset.written]
    rfl
  · rw [raiseFault_chan, hset.others d hd]

/-- Settles O20: along the effects of a command, the two that raise a fault are the saturating PITCH and the WAVE term
that is no command. -/
theorem onlyPitchFaultsAfterDecoding : Obligations.OnlyPitchFaultsAfterDecoding := by
  unfold Obligations.OnlyPitchFaultsAfterDecoding
  intro i s t hwf hexec hne
  have e : Effect s i t := effect_of_exec hexec
  cases e
  case pitchSaturates c q hq =>
    have h0 : s.fault = 0 := not_not.mp fun h => hne (raiseFault_fault_of_ne_zero (s := s.setChan c _) h)
    refine ⟨h0, raiseFault_fault_of_zero (s := s.setChan c _) h0, c, q, rfl, hq, ?_⟩
    rw [raiseFault_chan, State.chan_setChan_same]
    rfl
  case waveRejected c flags h3 =>
    rw [Instr.WellFormed, Instr.wellFormed, h3] at hwf
    exact absurd hwf (by decide)
  case sample => exact absurd (sampleStep_fault s) hne
  all_goals exact absurd rfl hne

/-! ### Nothing happens outside a command (60_exceptions.md R205) -/

/-- Settles O15: a step with nothing sent answers the same state (`step_nil`). -/
theorem waitingKeepsEveryRegister : Obligations.WaitingKeepsEveryRegister := by
  unfold Obligations.WaitingKeepsEveryRegister
  exact fun s hi => ⟨s, step_nil hi, .of_eq rfl, rfl, rfl, rfl, rfl⟩

/-! ### What a channel sees of its predecessor (60_exceptions.md R203) -/

section
variable {p p' r : ChannelRegs}

theorem hardSync_congr_pred (h : flagSync r = true → p.phase = p'.phase ∧ p.freq = p'.freq) :
    hardSync p r = hardSync p' r := by
  unfold hardSync wrapTest
  cases hsync : flagSync r with
  | false => rfl
  | true =>
    obtain ⟨hphase, hfreq⟩ := h hsync
    rw [hphase, hfreq]

theorem triByte_congr_pred (h : flagRing r = true → p.phase = p'.phase) : triByte p r = triByte p' r := by
  rw [triByte_eq, triByte_eq]
  unfold secondHalf
  cases hring : flagRing r with
  | false => rfl
  | true => rw [h hring]

theorem combine_congr_pred (cfg : Config) (h : flagRing r = true → p.phase = p'.phase) :
    combine cfg p r = combine cfg p' r := by
  unfold combine
  rw [triByte_congr_pred h]

/-- The sub-steps that read the predecessor are hard sync and the triangle's ring modulation, and they find SYNC and
RING as they stood before the sample. -/
theorem stepChannelRegs_congr_pred (cfg : Config)
    (h : flagSync r = true ∨ flagRing r = true → p.phase = p'.phase ∧ p.freq = p'.freq) :
    stepChannelRegs cfg p r = stepChannelRegs cfg p' r := by
  have hsync : hardSync p (phaseStep (envStep cfg r)) = hardSync p' (phaseStep (envStep cfg r)) := by
    refine hardSync_congr_pred fun hflag => h (.inl ?_)
    have hwave : (phaseStep (envStep cfg r)).wave = r.wave := envStep_wave cfg r
    rwa [flagSync, hwave] at hflag
  have hcombine : combine cfg p (noiseClock r.phase (hardSync p' (phaseStep (envStep cfg r)))) =
      combine cfg p' (noiseClock r.phase (hardSync p' (phaseStep (envStep cfg r)))) := by
    refine combine_congr_pred cfg fun hflag => (h (.inr ?_)).1
    have hwave : (noiseClock r.phase (hardSync p' (phaseStep (envStep cfg r)))).wave = r.wave :=
      stepChannelRegs_wave cfg p' r
    rwa [flagRing, hwave] at hflag
  unfold stepChannelRegs latchWave
  rw [hsync, hcombine]

end

/-- Settles O56: a channel's sample is a function of the parameters, its own registers and the predecessor it sees
(`sampleStep_chan`), and of that predecessor only what `stepChannelRegs_congr_pred` names. -/
theorem channelsCoupleOnlyThroughThePredecessor : Obligations.ChannelsCoupleOnlyThroughThePredecessor := by
  unfold Obligations.ChannelsCoupleOnlyThroughThePredecessor
  intro s s' t t' c hcfg hown ht ht' hseen
  obtain rfl : sampleStep s = t := Host.Outcome.next.inj ht
  obtain rfl : sampleStep s' = t' := Host.Outcome.next.inj ht'
  rw [sampleStep_chan s, sampleStep_chan s', ← hcfg, ← hown]
  exact stepChannelRegs_congr_pred s.cfg hseen

end Sys2Proof.Machine

/-! PROOFS. The reset and hazards family (70_reset_and_hazards.md): the reset input (R210), the silence it begins and
that lasts until a gate opens (R211), a gate closed for one sample and opened again (R218), and the noise register of a
channel whose phase stands still (R219). -/
namespace Sys2Proof.Machine

/-! ### The reset input (70_reset_and_hazards.md R210) -/

/-- Settles O13: a step that takes the reset input is `resetInput` (`step_reset`), which leaves every channel as
`ChannelRegs.reset` has it. -/
theorem resetInputSetsEveryRegister : Obligations.ResetInputSetsEveryRegister := by
  unfold Obligations.ResetInputSetsEveryRegister
  exact ⟨rfl, fun s rest h => ⟨_, step_reset h, resetInput_chan (dropInput s), rfl, rfl, rfl⟩⟩

/-! ### Silence (70_reset_and_hazards.md R211) -/

theorem not_gateIsOn_of_gate_zero {r : ChannelRegs} (h : r.gate = 0) : ¬GateIsOn r := by
  rintro ⟨hone, -⟩
  exact absurd (h.symm.trans hone) (by decide)

theorem resetWith_silent (cfg : Config) : (State.resetWith cfg).Silent := by
  intro c
  rw [resetWith_chan]
  exact ⟨rfl, rfl, not_gateIsOn_of_gate_zero rfl⟩

/-- Only SAMPLE can raise LEVEL or leave RELEASE, and with the gate off it takes the RELEASE action. -/
theorem ChannelEffect.keeps_released {cfg : Config} {c : Chan} {r q : ChannelRegs} {i : Instr}
    (h : ChannelEffect cfg c r i q) (hoff : ¬GateIsOn r) (hlevel : r.level = 0) (henvst : r.envst = .release) :
    q.level = 0 ∧ q.envst = .release := by
  cases h
  case sample p =>
    obtain ⟨hrelease, hfall⟩ := envStep_of_gate_off (cfg := cfg) hoff
    rw [hlevel] at hfall
    rw [stepChannelRegs_level, stepChannelRegs_envst]
    exact ⟨BitVec.eq_of_toNat_eq (hfall.trans (Nat.zero_sub _)), hrelease⟩
  case envrel => exact ⟨hlevel, rfl⟩
  all_goals exact ⟨hlevel, henvst⟩

theorem Effect.silent {s t : State} {i : Instr} (h : Effect s i t) (hs : s.Silent)
    (hoff : ∀ c, ¬GateIsOn (t.chan c)) : t.Silent := by
  intro c
  obtain ⟨hlevel, henvst, hgate⟩ := hs c
  obtain ⟨hlevel', henvst'⟩ := (h.channel c).keeps_released hgate hlevel henvst
  exact ⟨hlevel', henvst', hoff c⟩

theorem State.Silent.bankSum_eq_zero {s : State} (h : s.Silent) : bankSum s = 0 := by
  have hzero (c : Chan) : contributionOf s.cfg (s.chan c) = 0 := contributionOf_eq_zero (.inl (h c).1)
  simp [bankSum_eq, hzero]

/-- Settles O55: every command keeps a channel of closed gate in RELEASE at level 0 (`ChannelEffect.keeps_released`),
where its contribution to the sum is 0. -/
theorem silenceLastsUntilAGateOpens : Obligations.SilenceLastsUntilAGateOpens := by
  unfold Obligations.SilenceLastsUntilAGateOpens
  refine ⟨resetWith_silent _, fun i s t hs h hoff => ?_⟩
  have ht : t.Silent := (effect_of_exec h).silent hs hoff
  refine ⟨ht, ?_⟩
  rintro rfl
  obtain rfl : sampleStep s = t := Host.Outcome.next.inj h
  rw [sampleStep_out, ht.bankSum_eq_zero]
  rfl

/-! ### A gate closed for one sample (70_reset_and_hazards.md R218) -/

section
variable (s : State) (c : Chan)

theorem sample_of_gate_closed :
    ((sampleStep (s.setChan c { s.chan c with gate := 0 })).chan c).envst = .release ∧
      ((sampleStep (s.setChan c { s.chan c with gate := 0 })).chan c).level.toNat =
        (s.chan c).level.toNat - releaseOf s.cfg (s.chan c) :=
  sample_of_gate_off s c (r := { s.chan c with gate := 0 }) (not_gateIsOn_of_gate_zero rfl)

theorem sample_of_gate_opened (hflag : (s.chan c).wave.getLsbD 0 = true) :
    OpenGateSample s.cfg (s.chan c) ((sampleStep (s.setChan c { s.chan c with gate := 1 })).chan c) :=
  (sample_of_gate_on s c (r := { s.chan c with gate := 1 }) ⟨rfl, hflag⟩).congr rfl rfl rfl

end

/-- Settles O58: the sample under the closed gate ends in RELEASE (`sample_of_gate_closed`), from which the sample
under the opened gate takes the ATTACK action (`sample_of_gate_opened`), at the same rates. -/
theorem gateOffForOneSampleRetriggers : Obligations.GateOffForOneSampleRetriggers := by
  unfold Obligations.GateOffForOneSampleRetriggers
  intro s c hwave
  obtain ⟨hrelease, hfall⟩ := sample_of_gate_closed s c
  generalize hm : sampleStep (s.setChan c { s.chan c with gate := 0 }) = m at hrelease hfall
  have hcfg : m.cfg = s.cfg := by rw [← hm, sampleStep_cfg, State.setChan_cfg]
  have hadsr : (m.chan c).adsr = (s.chan c).adsr := by rw [← hm, sampleStep_adsr, State.chan_setChan_same]
  have hflag : (m.chan c).wave.getLsbD 0 = true := by rwa [← hm, sampleStep_wave, State.chan_setChan_same]
  obtain ⟨hrise, henvst⟩ := (sample_of_gate_opened m c hflag).attack (.inl hrelease)
  refine ⟨sampleStep (m.setChan c { m.chan c with gate := 1 }), hm ▸ rfl, ?_, henvst⟩
  rw [hrise, hfall, hcfg, attackOf, attackOf, hadsr]

/-! ### A phase that stands still (70_reset_and_hazards.md R219) -/

theorem nextPhase_of_freq_zero {p r : ChannelRegs} (hsync : ¬SyncedBy p r) (hfreq : r.freq = 0) :
    nextPhase p r = r.phase := by
  apply BitVec.eq_of_toNat_eq
  rw [nextPhase_of_not_synced hsync, hfreq]
  exact Nat.mod_eq_of_lt r.phase.isLt

/-- The noise register is clocked only by a change of PHASE's top five bits (43_sample.md R137). -/
theorem sampleStep_lfsr_of_phase {s : State} {c : Chan}
    (h : ((sampleStep s).chan c).phase.toNat / 2 ^ 23 = (s.chan c).phase.toNat / 2 ^ 23) :
    ((sampleStep s).chan c).lfsr = (s.chan c).lfsr := by
  rw [← noisePhase_eq_iff, sampleStep_phase] at h
  rw [sampleStep_chan, stepChannelRegs_lfsr, nextLfsr, if_neg (not_not_intro h)]

/-- Without TRI, SAW and PULSE the byte is made of the noise register alone (43_sample.md R142). -/
theorem combine_congr_of_noise {cfg : Config} (p p' : ChannelRegs) {r q : ChannelRegs} (htri : r.wave.getLsbD 4 = false)
    (hsaw : r.wave.getLsbD 5 = false) (hpulse : r.wave.getLsbD 6 = false) (hwave : q.wave = r.wave)
    (hlfsr : q.lfsr = r.lfsr) : combine cfg p' q = combine cfg p r := by
  refine BitVec.eq_of_getLsbD_eq fun i hi => ?_
  rw [combine_getLsbD cfg p' q ⟨i, hi⟩, combine_getLsbD cfg p r ⟨i, hi⟩, hwave, hlfsr, htri, hsaw, hpulse]
  simp only [Bool.not_false, Bool.true_or]

/-- Settles O52: at FREQ 0 the phase step adds nothing (`nextPhase_of_freq_zero`), so the noise register is not clocked
(`sampleStep_lfsr_of_phase`); and a byte of the noise register alone changes only with it (`combine_congr_of_noise`). -/
theorem noiseFreezesWithThePhase : Obligations.NoiseFreezesWithThePhase := by
  unfold Obligations.NoiseFreezesWithThePhase
  refine fun s => ⟨_, rfl, fun c => ⟨fun hfreq hsync => ?_, _, rfl, fun htri hsaw hpulse htop => ?_⟩⟩
  · have hphase : ((sampleStep s).chan c).phase = (s.chan c).phase := by
      rw [sampleStep_phase]
      exact nextPhase_of_freq_zero (fun ⟨hon, _⟩ => Bool.false_ne_true (hsync.symm.trans hon)) hfreq
    exact ⟨hphase, sampleStep_lfsr_of_phase (by rw [hphase])⟩
  · rw [← sampleStep_wave s c] at htri hsaw hpulse
    rw [sampleStep_waveout, sampleStep_waveout s, sampleStep_cfg]
    exact combine_congr_of_noise _ _ htri hsaw hpulse (sampleStep_wave _ c) (sampleStep_lfsr_of_phase htop)

end Sys2Proof.Machine
